-- ==== Sys2Proof/Word.lean ====
section
/-! DEFINITION. The unit of every byte sequence of the block. -/

namespace Sys2Proof

/-- One byte, an unsigned value 0..255 (20_memory.md R21, 00_scope.md R5). -/
abbrev Byte := BitVec 8

end Sys2Proof
end

