-- ==== Sys2Proof/Config.lean ====
section
/-! DEFINITION. The parameters of the block (00_scope.md R4) and its closed set of device kinds. The timezone
parameter APPLY_TZ is hardwired 0 (R4, 44_decoder.md R98): no definition reads it, the Clock decoder hands the raw byte out. -/

namespace Sys2Proof

/-- The kinds of sensor, a closed set of seven (41_registry.md R66). -/
inductive DeviceKind where
  | rainfall
  | thermohygrometer
  | barometer
  | uv
  | anemometer
  | clock
  | unknown
deriving DecidableEq, Repr

/-- The parameters the spec leaves OPEN (00_scope.md R4, 93 U12 to U14). They are straps: no rule writes them. -/
structure Params where
  /-- CAP, the chunk capacity in bytes, a 7-bit strap (10_state.md R15). -/
  cap : BitVec 7
  /-- BUF_CAP, the capacity of the StationBuffer; `none` is the default, unbounded (10_state.md R11). -/
  bufCap : Option Nat
  /-- CODE_RAIN, the device code of Rainfall (92 D10). -/
  codeRain : Byte
  /-- CODE_THERMO, the device code of Thermohygrometer (92 D10). -/
  codeThermo : Byte
deriving DecidableEq, Repr

/-- The parameters at their defaults. DESIGN CHOICE (log entry 1): CAP is 9, one of the two documented values.
The two device codes are the spec's defaults from general knowledge (log entry 2). -/
def Params.default : Params :=
  { cap := 9, bufCap := none, codeRain := 0x41, codeThermo := 0x42 }

/-- CODE_BARO (00_scope.md R4). -/
def Config.codeBaro : Byte := 0x46

/-- CODE_UV (00_scope.md R4). -/
def Config.codeUv : Byte := 0x47

/-- CODE_ANEMO (00_scope.md R4). -/
def Config.codeAnemo : Byte := 0x48

/-- CODE_CLOCK (00_scope.md R4). -/
def Config.codeClock : Byte := 0x60

/-- BATT_NIB_LOW: a battery nibble below it is OK (00_scope.md R4, 44_decoder.md R85). -/
def Config.battNibLow : Nat := 4

/-- YEAR_BASE, added to a year byte (00_scope.md R4). -/
def Config.yearBase : Nat := 2000

end Sys2Proof
end

