-- ==== Sys2Proof/Machine/Registry.lean ====
section
/-! DEFINITION. The DeviceRegistry (41_registry.md): device code to kind, kind to expected frame length. -/

namespace Sys2Proof.Machine

/-- `lookup(code)` (41_registry.md R64), in the rule's order of tests; the whole byte is compared. -/
def lookup (p : Params) (code : Byte) : DeviceKind :=
  if code = p.codeRain then .rainfall
  else if code = p.codeThermo then .thermohygrometer
  else if code = Config.codeBaro then .barometer
  else if code = Config.codeUv then .uv
  else if code = Config.codeAnemo then .anemometer
  else if code = Config.codeClock then .clock
  else .unknown

/-- `expectedLength(kind)` in bytes, the two checksum bytes included (41_registry.md R65). -/
def expectedLength : DeviceKind → Option Nat
  | .rainfall => some 17
  | .thermohygrometer => some 12
  | .barometer => some 8
  | .uv => some 6
  | .anemometer => some 11
  | .clock => some 12
  | .unknown => none

/-- The 3-bit kind code of an output record (30_encoding.md R56). -/
def kindCode : DeviceKind → BitVec 3
  | .rainfall => 0
  | .thermohygrometer => 1
  | .barometer => 2
  | .uv => 3
  | .anemometer => 4
  | .clock => 5
  | .unknown => 6

/-- The six device codes of the registry, in the order of 30_encoding.md R42. -/
def registryCodes (p : Params) : List Byte :=
  [p.codeRain, p.codeThermo, Config.codeBaro, Config.codeUv, Config.codeAnemo, Config.codeClock]

/-- The constraint of 92 D10: the six codes are pairwise distinct. -/
abbrev ParamsOk (p : Params) : Prop := (registryCodes p).Nodup

end Sys2Proof.Machine
end

