-- ==== Sys2Proof/Syntax.lean ====
section
/-! DEFINITION. The instruction set: one constructor per row of spec/opcode_table.json. A command's operands are pins
(10_state.md R19), not fields of its code, so the constructors carry none; DEC_UNKNOWN stands for many device codes and carries its own. -/

namespace Sys2Proof

/-- The 24 rows of the opcode table (00_scope.md R1, 30_encoding.md R38, R40, R42). -/
inductive Instr where
  /-- host command 0x0 (45_pipeline.md R100) -/
  | nop
  /-- host command 0x1 (42_synchronizer.md R68) -/
  | append
  /-- host command 0x2 (45_pipeline.md R102) -/
  | poll
  /-- host command 0x3 (45_pipeline.md R101) -/
  | reset
  /-- micro-operation 0x4 (42_synchronizer.md R69) -/
  | extract
  /-- micro-operation 0x5 (43_validator.md R75) -/
  | validate
  /-- micro-operation 0x6 (42_synchronizer.md R70) -/
  | requeue
  /-- micro-operation 0x7 (44_decoder.md R83) -/
  | decode
  /-- micro-operation 0x8 (45_pipeline.md R103) -/
  | emit
  /-- reserved code 0x9 (45_pipeline.md R108) -/
  | reserved9
  /-- reserved code 0xA (45_pipeline.md R108) -/
  | reservedA
  /-- reserved code 0xB (45_pipeline.md R108) -/
  | reservedB
  /-- reserved code 0xC (45_pipeline.md R108) -/
  | reservedC
  /-- reserved code 0xD (45_pipeline.md R108) -/
  | reservedD
  /-- reserved code 0xE (45_pipeline.md R108) -/
  | reservedE
  /-- reserved code 0xF (45_pipeline.md R108) -/
  | reservedF
  /-- the delimiter FF FF of the stream, and the search for it (30_encoding.md R40, 42_synchronizer.md R67) -/
  | delim
  /-- device code CODE_RAIN (44_decoder.md R87) -/
  | decRain
  /-- device code CODE_THERMO (44_decoder.md R88) -/
  | decThermo
  /-- device code 0x46 (44_decoder.md R89) -/
  | decBaro
  /-- device code 0x47 (44_decoder.md R90) -/
  | decUv
  /-- device code 0x48 (44_decoder.md R91) -/
  | decAnemo
  /-- device code 0x60 (44_decoder.md R92) -/
  | decClock
  /-- any other device code: no decoder runs (43_validator.md R77) -/
  | decUnknown (code : Byte)
deriving DecidableEq, Repr

end Sys2Proof
end

