-- ==== Sys2Proof/WellFormed.lean ====
section
/-! DEFINITION. Which terms of the syntax stand for an encoding. -/

namespace Sys2Proof

/-- DEC_UNKNOWN is the lowest-priority row: it stands only for a code that no other FRAME row matches (30_encoding.md
section 9, 41_registry.md R64). Every other constructor is well formed. -/
def Instr.wellFormed (p : Params) : Instr → Bool
  | .decUnknown code => Machine.lookup p code == .unknown
  | _ => true

end Sys2Proof
end

