-- ==== Sys2Proof/Decode.lean ====
section
/-! DEFINITION. The decoder, total on any bytes and rejecting by name, and the encoder, both written from
30_encoding.md (R37, R38, R40, R42 and section 9). -/

namespace Sys2Proof

/-- The three encoding spaces of the opcode table (30_encoding.md section 9). -/
inductive Space where
  /-- format CMD: the 4-bit op on the command port, held here in the low bits of one byte -/
  | command
  /-- format STREAM: two adjacent bytes of the StationBuffer -/
  | stream
  /-- formats FRAME and FRAME_*: byte 1 of a frame, the device code -/
  | frame
deriving DecidableEq, Repr

/-- Why bytes are no instruction of a space. -/
inductive DecodeError where
  /-- fewer bytes than the space's format has -/
  | truncated
  /-- a command byte with a bit set above op[3:0] (30_encoding.md R37: there are no other fields) -/
  | opTooWide
  /-- two stream bytes that are not FF FF (30_encoding.md R40) -/
  | notDelimiter
deriving DecidableEq, Repr

/-- A delimiter occurrence: both bytes are 0xFF (30_encoding.md R40). -/
def isDelim (x y : Byte) : Bool := x == 0xFF && y == 0xFF

/-- The op code space (30_encoding.md R38): every one of the 16 codes has a row. -/
def decodeOp (op : BitVec 4) : Instr :=
  match op.toNat with
  | 0 => .nop
  | 1 => .append
  | 2 => .poll
  | 3 => .reset
  | 4 => .extract
  | 5 => .validate
  | 6 => .requeue
  | 7 => .decode
  | 8 => .emit
  | 9 => .reserved9
  | 10 => .reservedA
  | 11 => .reservedB
  | 12 => .reservedC
  | 13 => .reservedD
  | 14 => .reservedE
  | _ => .reservedF

/-- The decode routine of a frame whose byte 1 is `code` and whose kind is `k` (30_encoding.md R42). -/
def routineOf (k : DeviceKind) (code : Byte) : Instr :=
  match k with
  | .rainfall => .decRain
  | .thermohygrometer => .decThermo
  | .barometer => .decBaro
  | .uv => .decUv
  | .anemometer => .decAnemo
  | .clock => .decClock
  | .unknown => .decUnknown code

/-- The device-code map (30_encoding.md R42): the kind of the code tells the row. -/
def decodeCode (p : Params) (code : Byte) : Instr := routineOf (Machine.lookup p code) code

/-- The instruction at the front of `bytes` in a space, with the bytes after it. -/
def decode (p : Params) : Space → List Byte → Except DecodeError (Instr × List Byte)
  | .command, b :: rest =>
    if b.toNat < 16 then .ok (decodeOp (b.setWidth 4), rest) else .error .opTooWide
  | .stream, x :: y :: rest => if isDelim x y then .ok (.delim, rest) else .error .notDelimiter
  | .frame, b :: rest => .ok (decodeCode p b, rest)
  | _, _ => .error .truncated

/-- The words of an instruction: its space and its bytes there (30_encoding.md R38, R40, R42). -/
def encode (p : Params) : Instr → Space × List Byte
  | .nop => (.command, [0x0])
  | .append => (.command, [0x1])
  | .poll => (.command, [0x2])
  | .reset => (.command, [0x3])
  | .extract => (.command, [0x4])
  | .validate => (.command, [0x5])
  | .requeue => (.command, [0x6])
  | .decode => (.command, [0x7])
  | .emit => (.command, [0x8])
  | .reserved9 => (.command, [0x9])
  | .reservedA => (.command, [0xA])
  | .reservedB => (.command, [0xB])
  | .reservedC => (.command, [0xC])
  | .reservedD => (.command, [0xD])
  | .reservedE => (.command, [0xE])
  | .reservedF => (.command, [0xF])
  | .delim => (.stream, [0xFF, 0xFF])
  | .decRain => (.frame, [p.codeRain])
  | .decThermo => (.frame, [p.codeThermo])
  | .decBaro => (.frame, [Config.codeBaro])
  | .decUv => (.frame, [Config.codeUv])
  | .decAnemo => (.frame, [Config.codeAnemo])
  | .decClock => (.frame, [Config.codeClock])
  | .decUnknown code => (.frame, [code])

/-- The space a word of the opcode table belongs to, and its bytes. A 16-bit row is the STREAM row, whose value is
`q[i]*256 + q[i+1]`. An 8-bit word below 16 is read as an op code and any other as a device code: the table tells the two apart by
its format column, which a word does not carry. A row without bits is the default FRAME row, its code byte 0x00 (log entry 6). -/
def tableWord (nbits w : Nat) : Space × List Byte :=
  if nbits = 16 then (.stream, [BitVec.ofNat 8 (w / 256), BitVec.ofNat 8 (w % 256)])
  else if nbits = 0 then (.frame, [0])
  else if w < 16 then (.command, [BitVec.ofNat 8 w])
  else (.frame, [BitVec.ofNat 8 w])

/-- The instruction the decoder reads from a word of the opcode table, under the default parameters; none where the word has
more bits than the row, or the decoder refuses it. -/
def decodeTableWord (nbits w : Nat) : Option Instr :=
  if w < 2 ^ nbits ∧ nbits ≤ 16 then
    match decode Params.default (tableWord nbits w).1 (tableWord nbits w).2 with
    | .ok (i, _) => some i
    | .error _ => none
  else none

end Sys2Proof
end

