-- ==== Sys2Proof/Machine/Operands.lean ====
section
/-! DEFINITION. The BitBuffer accessors (40_bitbuffer.md): the operand forms every rule reads a byte sequence with. Each is a
pure function into an exception type (R62). -/

namespace Sys2Proof.Machine

/-- Why an accessor has no value. -/
inductive ReadError where
  /-- `OutOfRange`: an index at or past the length (40_bitbuffer.md R57, 60_exceptions.md R119, 93 U3) -/
  | outOfRange (pos len : Nat)
  /-- a bit span outside one byte, or empty (40_bitbuffer.md R58, 93 U1) -/
  | undefinedBitSpan (bitOffset numBits : Nat)
  /-- a nibble offset other than 0 or 1 (40_bitbuffer.md R59, 93 U2) -/
  | undefinedNibble (nibbleOffset : Nat)
deriving DecidableEq, Repr

/-- `q[a..b)` (00_scope.md R6). -/
def slice (q : List Byte) (a b : Nat) : List Byte := (q.take b).drop a

/-- `byteAt(q, pos)` (40_bitbuffer.md R57). -/
def byteAt (q : List Byte) (pos : Nat) : Except ReadError Nat :=
  match q[pos]? with
  | some b => .ok b.toNat
  | none => .error (.outOfRange pos q.length)

/-- `bitsAt(q, bytePos, bitOffset, numBits)` (40_bitbuffer.md R58); outside the domain it has no value. -/
def bitsAt (q : List Byte) (bytePos bitOffset numBits : Nat) : Except ReadError Nat :=
  if 1 ≤ numBits ∧ bitOffset + numBits ≤ 8 then do
    let b ← byteAt q bytePos
    .ok (b / 2 ^ bitOffset % 2 ^ numBits)
  else .error (.undefinedBitSpan bitOffset numBits)

/-- `nibbleAt(q, bytePos, nibbleOffset)` (40_bitbuffer.md R59): offset 0 is the low nibble, 1 the high one. -/
def nibbleAt (q : List Byte) (bytePos nibbleOffset : Nat) : Except ReadError Nat :=
  match nibbleOffset with
  | 0 => do
    let b ← byteAt q bytePos
    .ok (b % 16)
  | 1 => do
    let b ← byteAt q bytePos
    .ok (b / 16)
  | o => .error (.undefinedNibble o)

/-- The sum of 40_bitbuffer.md R60 over the first `count` nibbles of a run. -/
def nibbleSum (q : List Byte) (bytePos nibbleOffset : Nat) : Nat → Except ReadError Nat
  | 0 => .ok 0
  | j + 1 => do
    let v ← nibbleSum q bytePos nibbleOffset j
    let n ← nibbleAt q (bytePos + (nibbleOffset + j) / 2) ((nibbleOffset + j) % 2)
    .ok (v + n * 16 ^ j)

/-- `nibbleRun(q, bytePos, nibbleOffset, count)` (40_bitbuffer.md R60); an offset other than 0 or 1 has no value (93 U2). -/
def nibbleRun (q : List Byte) (bytePos nibbleOffset count : Nat) : Except ReadError Nat :=
  if nibbleOffset ≤ 1 then nibbleSum q bytePos nibbleOffset count
  else .error (.undefinedNibble nibbleOffset)

/-- `wordAt(q, bytePos)`, little-endian (40_bitbuffer.md R61, 20_memory.md R23). -/
def wordAt (q : List Byte) (bytePos : Nat) : Except ReadError Nat := do
  let lo ← byteAt q bytePos
  let hi ← byteAt q (bytePos + 1)
  .ok (lo + 256 * hi)

/-- The sum of all bytes of a sequence on naturals (43_validator.md R80, R81). -/
def byteSum (q : List Byte) : Nat := (q.map BitVec.toNat).sum

/-- The search of 42_synchronizer.md R67 over a sequence whose first element has index `i`. -/
def scanFrom : List Byte → Nat → Option Nat
  | x :: y :: rest, i => if isDelim x y then some i else scanFrom (y :: rest) (i + 1)
  | _, _ => none

/-- `findDelim(q, a)`: the index of the first delimiter occurrence at or after `a` (42_synchronizer.md R67). -/
def findDelim (q : List Byte) (a : Nat) : Option Nat := scanFrom (q.drop a) a

end Sys2Proof.Machine
end

