-- ==== Sys2Proof/Machine/State.lean ====
section
/-! DEFINITION. The state of the block as plain data: StationBuffer, OVF, straps, pins, outputs, and the values that live
inside one command (10_state.md). -/

namespace Sys2Proof.Machine

/-- Why the machine stops with a fault. -/
inductive Fault where
  /-- `OutOfRange`. Raised by any instruction whose accessor is given an index at or past the length. The spec calls it a defect
  with no status code that a correct model proves unreachable (60_exceptions.md R119, 93 U3). Safe: the model stops. -/
  | outOfRange (pos len : Nat)
deriving DecidableEq, Repr

/-- Why there is no meaning for an instruction in a state. -/
inductive Refusal where
  /-- Raised only by an arm of `exec` whose instruction has no meaning yet; no arm is one. Safe. -/
  | notModelled (mnemonic : String)
  /-- Raised by a host command or a refused op code presented while another command is in progress: two overlapping commands have
  no defined behaviour and the model offers no such move (70_reset_and_hazards.md R137, 93 U15). `step` never asks for it. Safe. -/
  | overlappingCommand
  /-- Raised by DELIM, the six decoders and DEC_UNKNOWN in a state where the block is not at that point of a POLL: they have no op
  code on the port, and a decoder is never given an unvalidated frame (70_reset_and_hazards.md R136). `step` never asks for it. Safe. -/
  | notDispatched
  /-- Raised by an instruction whose `bitsAt` call lies outside the accessor's domain; no rule makes such a call
  (40_bitbuffer.md R58, 93 U1). Safe. -/
  | undefinedBitSpan (bitOffset numBits : Nat)
  /-- Raised by an instruction whose nibble offset is neither 0 nor 1; no rule makes such a call (40_bitbuffer.md R59, 93 U2). Safe. -/
  | undefinedNibble (nibbleOffset : Nat)
deriving DecidableEq, Repr

/-- The status codes (60_exceptions.md R110), in the order of their numbers. -/
inductive StatusCode where
  | ok
  | badChunk
  | noStart
  | noEnd
  | emptyFrame
  | reading
  | errRunt
  | errUnknownDevice
  | errLength
  | errChecksum
  | illegalCmd
  | faultOverflow
deriving DecidableEq, Repr

/-- The validation errors and the values each carries (43_validator.md R75). -/
inductive ValidationError where
  /-- with the length of the frame -/
  | runtFrame (len : Nat)
  | unknownDevice (code : Nat)
  | frameLengthMismatch (actual expected : Nat)
  | checksumMismatch (expected actual : Nat)
deriving DecidableEq, Repr

/-- The fields of a Rainfall reading (44_decoder.md R87, 45_pipeline.md R104). -/
structure RainReading where
  batteryNib : Nat
  batteryOk : Bool
  rate : Nat
  hourTotal : Nat
  dayTotal : Nat
  resetTotal : Nat
  rMinute : Nat
  rHour : Nat
  rDay : Nat
  rMonth : Nat
  rYear : Nat
deriving DecidableEq, Repr

/-- The heat index of a Thermohygrometer reading, when present (44_decoder.md R88, R94). -/
structure HeatIndex where
  heatMag : Nat
  heatX10 : Int
deriving DecidableEq, Repr

/-- The fields of a Thermohygrometer reading (44_decoder.md R88, 45_pipeline.md R104). -/
structure ThermoReading where
  batteryGood : Bool
  tempTrend : Nat
  humTrend : Nat
  sensor : Nat
  tempNeg : Bool
  tempMag : Nat
  tempX10 : Int
  humidity : Nat
  dewNeg : Bool
  dewMag : Nat
  dewX10 : Int
  heat : Option HeatIndex
deriving DecidableEq, Repr

/-- The fields of a Barometer reading (44_decoder.md R89, 45_pipeline.md R104). -/
structure BaroReading where
  pAbs : Nat
  pRel : Nat
  forecastIdx : Nat
  previousIdx : Nat
deriving DecidableEq, Repr

/-- The fields of a UV reading (44_decoder.md R90, 45_pipeline.md R104). -/
structure UvReading where
  batteryNib : Nat
  batteryOk : Bool
  uvIndex : Nat
deriving DecidableEq, Repr

/-- The wind chill of an Anemometer reading, when present (44_decoder.md R91, R94). -/
structure WindChill where
  chillNeg : Bool
  chillMag : Nat
  chillVal : Int
deriving DecidableEq, Repr

/-- The fields of an Anemometer reading (44_decoder.md R91, 45_pipeline.md R104). -/
structure AnemoReading where
  batteryNib : Nat
  batteryOk : Bool
  dirIdx : Nat
  degX10 : Nat
  gustX10 : Nat
  avgX10 : Nat
  chill : Option WindChill
deriving DecidableEq, Repr

/-- The fields of a Clock reading (44_decoder.md R92, 45_pipeline.md R104). -/
structure ClockReading where
  powered : Bool
  batteryGood : Bool
  rfSyncActive : Bool
  rfSignalStrong : Bool
  minute : Nat
  hour : Nat
  day : Nat
  month : Nat
  year : Nat
  tzRaw : Nat
deriving DecidableEq, Repr

/-- The DecodedReading, a tagged union keyed by the kind (45_pipeline.md R104). -/
inductive Reading where
  | rain (r : RainReading)
  | thermo (r : ThermoReading)
  | baro (r : BaroReading)
  | uv (r : UvReading)
  | anemo (r : AnemoReading)
  | clock (r : ClockReading)
deriving DecidableEq, Repr

/-- An output record: Reading (45_pipeline.md R104) or Invalid (R105). The 1-bit field `type` is the constructor. -/
inductive OutRecord where
  | reading (kind : DeviceKind) (trunc : Bool) (fields : Reading)
  | invalid (err : StatusCode) (trunc : Bool) (info1 info2 count : Nat) (dump : List Byte)
deriving DecidableEq, Repr

/-- The input pins of one transaction (10_state.md R19). -/
structure Pins where
  /-- `rst` (70_reset_and_hazards.md R127) -/
  rst : Bool
  /-- `op`, the command code (30_encoding.md R37) -/
  op : BitVec 4
  /-- `chunk`: the bytes on the chunk lines from index 0 up; a line past the list's end carries 0, so every assignment of the
  lines is some list (log entry 3) -/
  chunk : List Byte
  /-- `chunk_len`, the number `L` of bytes present in `chunk` (30_encoding.md R39) -/
  chunkLen : BitVec 7
  /-- `SUPPRESS` (10_state.md R15) -/
  suppress : Bool
deriving DecidableEq, Repr

/-- Pins of a host that asks for nothing: the idle code NOP, SUPPRESS at the host's default 1 (10_state.md R15). -/
def Pins.idle : Pins := { rst := false, op := 0, chunk := [], chunkLen := 0, suppress := true }

/-- The point a command in progress has reached, with the transient values alive there (10_state.md R12). `idle` is the only value
between commands; `sup` is SUPPRESS as POLL sampled it, `fr` the frame FR, `t` the annotation T. -/
inductive Micro where
  /-- no command in progress -/
  | idle
  /-- EXTRACT is about to run (42_synchronizer.md R69) -/
  | extract (sup : Bool)
  /-- inside EXTRACT, before the search for the start delimiter from index 0 -/
  | seekStart (sup : Bool)
  /-- inside EXTRACT, before the search for the end delimiter from `bodyStart` -/
  | seekEnd (sup : Bool) (bodyStart : Nat)
  /-- VALIDATE is about to run on FR (43_validator.md R75) -/
  | validate (sup : Bool) (fr : List Byte)
  /-- inside VALIDATE, the lookup gave Unknown (43_validator.md R77) -/
  | unknown (sup : Bool) (fr : List Byte)
  /-- inside VALIDATE, before `REQUEUE(extra)`; FR is already cut to its expected length (43_validator.md R78) -/
  | requeue (sup : Bool) (kind : DeviceKind) (fr extra : List Byte)
  /-- inside VALIDATE, before the tests of steps 4 and 5 (43_validator.md R79, R80) -/
  | check (sup : Bool) (kind : DeviceKind) (fr : List Byte) (t : Bool)
  /-- DECODE is about to run (44_decoder.md R83) -/
  | decode (kind : DeviceKind) (fr : List Byte) (t : Bool)
  /-- inside DECODE, before the routine of the kind -/
  | routine (kind : DeviceKind) (fr : List Byte) (t : Bool)
  /-- EMIT is about to deliver a record (45_pipeline.md R103) -/
  | emit (rec : OutRecord)
deriving DecidableEq, Repr

/-- The state of the machine. The spec's persistent state is `sb` and, under a finite BUF_CAP, `ovf` (10_state.md R9); the rest is
straps, pins, outputs, transient values and two fields of the model's own. -/
structure State where
  /-- the parameters, written by no rule (00_scope.md R4, 10_state.md R15) -/
  params : Params
  /-- the input pins of the transaction now presented (10_state.md R19) -/
  port : Pins
  /-- the MODEL's own: the transactions the host has still to present, oldest first (70_reset_and_hazards.md R155, log entry 4) -/
  pending : List Pins
  /-- SB, the StationBuffer, index 0 the oldest byte (10_state.md R10) -/
  sb : List Byte
  /-- OVF, the sticky overflow bit; it has an effect only under a finite BUF_CAP (10_state.md R11) -/
  ovf : Bool
  /-- `status`, of the command just performed (60_exceptions.md R110) -/
  status : BitVec 5
  /-- `out`, present exactly when `out_valid` is 1 (10_state.md R20, 93 U10) -/
  out : Option OutRecord
  /-- `valid_pulse` (45_pipeline.md R106) -/
  validPulse : Bool
  /-- the transient values of a command in progress (10_state.md R12) -/
  micro : Micro
  /-- the MODEL's own: the values `phase` took during the command just performed (60_exceptions.md R126, log entry 5) -/
  phases : List (BitVec 4)
deriving DecidableEq, Repr

/-- The machine right after reset (10_state.md R20): SB empty, OVF 0, status ST_OK, no record, no pulse, nothing in progress. The
parameters and pins are inputs that reset does not touch; their values here are named in log entries 1 to 3. -/
def State.reset : State :=
  { params := Params.default
    port := Pins.idle
    pending := []
    sb := []
    ovf := false
    status := 0
    out := none
    validPulse := false
    micro := .idle
    phases := [] }

end Sys2Proof.Machine
end

