-- ==== Sys2Proof/Machine/Flags.lean ====
section
/-! DEFINITION. Every condition the block reports as bits: status words (60_exceptions.md R110), the values of a validation error
(45_pipeline.md R105), and the battery and sign helpers of the decoders (44_decoder.md R85, R86). -/

namespace Sys2Proof.Machine

/-- The number of a status code (60_exceptions.md R110). -/
def StatusCode.bits : StatusCode → BitVec 4
  | .ok => 0
  | .badChunk => 1
  | .noStart => 2
  | .noEnd => 3
  | .emptyFrame => 4
  | .reading => 5
  | .errRunt => 6
  | .errUnknownDevice => 7
  | .errLength => 8
  | .errChecksum => 9
  | .illegalCmd => 10
  | .faultOverflow => 11

/-- The 5-bit status: `status[3:0]` is the code, `status[4]` is T (60_exceptions.md R110). -/
def statusWord (code : StatusCode) (t : Bool) : BitVec 5 := BitVec.ofBool t ++ code.bits

/-- `code(E)` (60_exceptions.md R110). -/
def ValidationError.code : ValidationError → StatusCode
  | .runtFrame _ => .errRunt
  | .unknownDevice _ => .errUnknownDevice
  | .frameLengthMismatch _ _ => .errLength
  | .checksumMismatch _ _ => .errChecksum

/-- `info1` of the Invalid record (45_pipeline.md R105). -/
def ValidationError.info1 : ValidationError → Nat
  | .runtFrame len => len
  | .unknownDevice code => code
  | .frameLengthMismatch actual _ => actual
  | .checksumMismatch expected _ => expected

/-- `info2` of the Invalid record (45_pipeline.md R105). -/
def ValidationError.info2 : ValidationError → Nat
  | .runtFrame _ => 0
  | .unknownDevice _ => 0
  | .frameLengthMismatch _ expected => expected
  | .checksumMismatch _ actual => actual

/-- The Invalid record of a frame that failed (45_pipeline.md R105): `count` is its length, `dump` its bytes. -/
def ValidationError.record (e : ValidationError) (t : Bool) (fr : List Byte) : OutRecord :=
  .invalid e.code t e.info1 e.info2 fr.length fr

/-- The status a POLL returns with a record it delivers (45_pipeline.md R102). -/
def OutRecord.status : OutRecord → BitVec 5
  | .reading _ t _ => statusWord .reading t
  | .invalid err t _ _ _ _ => statusWord err t

/-- `valid_pulse` of a POLL that delivers a record: 1 for a Reading only (45_pipeline.md R106). -/
def OutRecord.pulse : OutRecord → Bool
  | .reading _ _ _ => true
  | .invalid _ _ _ _ _ _ => false

/-- The kind of a reading's fields. -/
def Reading.kind : Reading → DeviceKind
  | .rain _ => .rainfall
  | .thermo _ => .thermohygrometer
  | .baro _ => .barometer
  | .uv _ => .uv
  | .anemo _ => .anemometer
  | .clock _ => .clock

/-- `out_valid` (10_state.md R19): whether the command just performed delivered a record. -/
def State.outValid (s : State) : Bool := s.out.isSome

/-- The op code of the micro-operation in progress, 0 when there is none (10_state.md R19, 60_exceptions.md R126). -/
def Micro.phase : Micro → BitVec 4
  | .idle => 0
  | .extract _ => 4
  | .seekStart _ => 4
  | .seekEnd _ _ => 4
  | .validate _ _ => 5
  | .unknown _ _ => 5
  | .requeue _ _ _ _ => 6
  | .check _ _ _ _ => 5
  | .decode _ _ _ => 7
  | .routine _ _ _ => 7
  | .emit _ => 8

/-- The output `phase` (10_state.md R19). -/
def State.phase (s : State) : BitVec 4 := s.micro.phase

/-- `battery_ok` of a battery nibble (44_decoder.md R85). -/
def batteryOk (nib : Nat) : Bool := nib < Config.battNibLow

/-- `neg(n)` of a sign nibble (44_decoder.md R86): 0 is plus, any other value minus. -/
def neg (n : Nat) : Bool := n != 0

/-- `signed(negbit, mag)` (44_decoder.md R86). -/
def signed (negbit : Bool) (mag : Nat) : Int := if negbit then -(mag : Int) else mag

end Sys2Proof.Machine
end

