-- ==== Sys2Proof/Machine/Ops.lean ====
section
/-! DEFINITION. The named operations over the StationBuffer, the outputs and the command in progress. The block has no trap: what
stands here in place of taking an exception is the one operation that reports a condition (60_exceptions.md R123). -/

namespace Sys2Proof.Machine

/-- What a meaning answers. -/
abbrev Result := Host.Outcome State Fault Refusal

/-- The rest of a sequence of operations, run on the state the first one leaves. -/
def andThen (r : Result) (k : State → Result) : Result :=
  match r with
  | .next s => k s
  | .fault f => .fault f
  | .refused x => .refused x

/-- What becomes of an accessor's answer: OutOfRange is the model's fault, a call outside the domain a refusal (93 U1 to U3). -/
def ofRead {α : Type} (r : Except ReadError α) (k : α → Result) : Result :=
  match r with
  | .ok a => k a
  | .error (.outOfRange pos len) => .fault (.outOfRange pos len)
  | .error (.undefinedBitSpan o n) => .refused (.undefinedBitSpan o n)
  | .error (.undefinedNibble o) => .refused (.undefinedNibble o)

/-- The chunk `CH[0..L)` (30_encoding.md R39): the first `L` bytes of the lines. -/
def Pins.ch (p : Pins) : List Byte := p.chunk.takeD p.chunkLen.toNat 0

/-- Whether a content of SB keeps within BUF_CAP (10_state.md R11); with the default every content does. -/
def State.fits (s : State) (q : List Byte) : Bool :=
  match s.params.bufCap with
  | none => true
  | some c => q.length ≤ c

/-- OVF, which exists only under a finite BUF_CAP (10_state.md R9, R11). -/
def State.ovfSet (s : State) : Bool := s.params.bufCap.isSome && s.ovf

/-- The response of a command that delivers no record and has no micro-operation (45_pipeline.md R99). -/
def State.respond (code : StatusCode) (s : State) : State :=
  { s with status := statusWord code false, out := none, validPulse := false, phases := [] }

/-- The effect of reset (70_reset_and_hazards.md R127): the initial state; straps and inputs are not touched. -/
def State.clear (s : State) : State :=
  { s with sb := [], ovf := false, status := statusWord .ok false, out := none, validPulse := false, micro := .idle, phases := [] }

/-- `SB <- q` where room is tested first (10_state.md R11): nothing where the content would exceed BUF_CAP. -/
def State.writeSB (q : List Byte) (s : State) : Option State :=
  if s.fits q then some { s with sb := q } else none

/-- The overflow fault: `OVF <- 1` and nothing else (10_state.md R11). -/
def State.setOvf (s : State) : State := { s with ovf := true }

/-- `SB <- SB[f..]` (10_state.md R10). -/
def State.drain (f : Nat) (s : State) : State := { s with sb := s.sb.drop f }

/-- The command in progress reaches another point; the output `phase` is recorded where it changes. -/
def State.goto (m : Micro) (s : State) : State :=
  { s with micro := m, phases := if s.micro.phase = m.phase then s.phases else s.phases ++ [m.phase] }

/-- The start of a POLL (45_pipeline.md R102): SUPPRESS is sampled, the outputs are cleared, EXTRACT is next. -/
def State.startPoll (s : State) : State :=
  { s with out := none, validPulse := false, micro := .extract s.port.suppress, phases := [4] }

/-- The command ends with a status and without a record; the transient values die (60_exceptions.md R123). -/
def State.finish (code : StatusCode) (t : Bool) (s : State) : State :=
  { s with status := statusWord code t, micro := .idle }

/-- Reporting a validation error (60_exceptions.md R123, 45_pipeline.md R102): with SUPPRESS 1 the command ends with the status
alone; with SUPPRESS 0 the Invalid record goes to EMIT. Writes to SB made before stand. -/
def State.report (sup : Bool) (fr : List Byte) (t : Bool) (e : ValidationError) (s : State) : State :=
  if sup then s.finish e.code t else s.goto (.emit (e.record t fr))

/-- A host command is performed only when no other is in progress (45_pipeline.md R99, 70_reset_and_hazards.md R137). -/
def atPort (s : State) (r : Result) : Result :=
  match s.micro with
  | .idle => r
  | _ => .refused .overlappingCommand

/-- An illegal or reserved op code at the port is not performed: status and outputs only, no state written (45_pipeline.md R108). -/
def illegal (s : State) : Result := atPort s (.next (s.respond .illegalCmd))

end Sys2Proof.Machine
end

