-- ==== Sys2Proof/Machine/Decoder.lean ====
section
/-! DEFINITION. The SensorDecoder (44_decoder.md): the six decode routines as pure functions of a frame (R84), their
instructions, and the dispatch DECODE. -/

namespace Sys2Proof.Machine

/-- DEC_RAIN's reading of a frame (44_decoder.md R87, 30_encoding.md R43). -/
def decodeRain (fr : List Byte) : Except ReadError RainReading := do
  let batteryNib ← nibbleAt fr 0 1
  let rate ← wordAt fr 2
  let hourTotal ← wordAt fr 4
  let dayTotal ← wordAt fr 6
  let resetTotal ← wordAt fr 8
  let rMinute ← byteAt fr 10
  let rHour ← byteAt fr 11
  let rDay ← byteAt fr 12
  let rMonth ← byteAt fr 13
  let yearOff ← byteAt fr 14
  .ok { batteryNib := batteryNib, batteryOk := batteryOk batteryNib, rate := rate, hourTotal := hourTotal,
        dayTotal := dayTotal, resetTotal := resetTotal, rMinute := rMinute, rHour := rHour, rDay := rDay,
        rMonth := rMonth, rYear := Config.yearBase + yearOff }

/-- The heat index (44_decoder.md R88 points (a) to (c), R94): absent when bit 5 of byte 9 is 1, signed by the dewpoint's nibble. -/
def decodeHeat (fr : List Byte) (dewNeg : Bool) : Except ReadError (Option HeatIndex) := do
  let invalid ← bitsAt fr 9 5 1
  if invalid = 0 then do
    let mag ← nibbleRun fr 8 0 3
    .ok (some { heatMag := mag, heatX10 := signed dewNeg mag })
  else .ok none

/-- DEC_THERMO's reading of a frame (44_decoder.md R88, 30_encoding.md R44). -/
def decodeThermo (fr : List Byte) : Except ReadError ThermoReading := do
  let battery ← bitsAt fr 0 6 1
  let tempTrend ← bitsAt fr 0 4 2
  let humTrend ← bitsAt fr 2 0 2
  let sensor ← nibbleAt fr 2 0
  let tempSign ← nibbleAt fr 4 1
  let tempMag ← nibbleRun fr 3 0 3
  let humidity ← byteAt fr 5
  let dewSign ← nibbleAt fr 7 1
  let dewMag ← nibbleRun fr 6 0 3
  let heat ← decodeHeat fr (neg dewSign)
  .ok { batteryGood := battery == 0, tempTrend := tempTrend, humTrend := humTrend, sensor := sensor,
        tempNeg := neg tempSign, tempMag := tempMag, tempX10 := signed (neg tempSign) tempMag,
        humidity := humidity, dewNeg := neg dewSign, dewMag := dewMag, dewX10 := signed (neg dewSign) dewMag,
        heat := heat }

/-- DEC_BARO's reading of a frame (44_decoder.md R89, 30_encoding.md R45). -/
def decodeBaro (fr : List Byte) : Except ReadError BaroReading := do
  let pAbs ← nibbleRun fr 2 0 3
  let pRel ← nibbleRun fr 4 0 3
  let forecastIdx ← nibbleAt fr 3 1
  let previousIdx ← nibbleAt fr 5 1
  .ok { pAbs := pAbs, pRel := pRel, forecastIdx := forecastIdx, previousIdx := previousIdx }

/-- DEC_UV's reading of a frame (44_decoder.md R90, 30_encoding.md R46). -/
def decodeUv (fr : List Byte) : Except ReadError UvReading := do
  let batteryNib ← nibbleAt fr 0 1
  let uvIndex ← byteAt fr 3
  .ok { batteryNib := batteryNib, batteryOk := batteryOk batteryNib, uvIndex := uvIndex }

/-- The wind chill (44_decoder.md R91, R94): absent when bit 5 of byte 8 is 1, signed by bit 7 of byte 8. -/
def decodeChill (fr : List Byte) : Except ReadError (Option WindChill) := do
  let na ← bitsAt fr 8 5 1
  if na = 1 then .ok none
  else do
    let sign ← bitsAt fr 8 7 1
    let mag ← byteAt fr 7
    .ok (some { chillNeg := sign == 1, chillMag := mag, chillVal := signed (sign == 1) mag })

/-- DEC_ANEMO's reading of a frame (44_decoder.md R91, 30_encoding.md R47). -/
def decodeAnemo (fr : List Byte) : Except ReadError AnemoReading := do
  let batteryNib ← nibbleAt fr 0 1
  let dirIdx ← nibbleAt fr 2 0
  let gustX10 ← nibbleRun fr 4 0 3
  let avgLow ← byteAt fr 5
  let avgHigh ← byteAt fr 6
  let chill ← decodeChill fr
  .ok { batteryNib := batteryNib, batteryOk := batteryOk batteryNib, dirIdx := dirIdx, degX10 := 225 * dirIdx,
        gustX10 := gustX10, avgX10 := 16 * avgHigh + avgLow / 16, chill := chill }

/-- DEC_CLOCK's reading of a frame (44_decoder.md R92, 30_encoding.md R48); the timezone byte is handed out raw (R98). -/
def decodeClock (fr : List Byte) : Except ReadError ClockReading := do
  let poweredN ← bitsAt fr 0 7 1
  let battery ← bitsAt fr 0 6 1
  let rfSync ← bitsAt fr 0 5 1
  let rfSignal ← bitsAt fr 0 4 1
  let minute ← byteAt fr 4
  let hour ← byteAt fr 5
  let day ← byteAt fr 6
  let month ← byteAt fr 7
  let yearOff ← byteAt fr 8
  let tzRaw ← byteAt fr 9
  .ok { powered := poweredN == 0, batteryGood := battery == 0, rfSyncActive := rfSync == 1,
        rfSignalStrong := rfSignal == 0, minute := minute, hour := hour, day := day, month := month,
        year := Config.yearBase + yearOff, tzRaw := tzRaw }

/-- What a decode routine's reading becomes: the Reading record POLL hands to EMIT (45_pipeline.md R102, R104). -/
def deliver {α : Type} (kind : DeviceKind) (t : Bool) (tag : α → Reading) (r : Except ReadError α) (s : State) : Result :=
  ofRead r fun fields => .next (s.goto (.emit (.reading kind t (tag fields))))

/-- DEC_RAIN (44_decoder.md R87), run where DECODE stands at a Rainfall frame. -/
def execDecRain (s : State) : Result :=
  match s.micro with
  | .routine .rainfall fr t => deliver .rainfall t .rain (decodeRain fr) s
  | _ => .refused .notDispatched

/-- DEC_THERMO (44_decoder.md R88), run where DECODE stands at a Thermohygrometer frame. -/
def execDecThermo (s : State) : Result :=
  match s.micro with
  | .routine .thermohygrometer fr t => deliver .thermohygrometer t .thermo (decodeThermo fr) s
  | _ => .refused .notDispatched

/-- DEC_BARO (44_decoder.md R89), run where DECODE stands at a Barometer frame. -/
def execDecBaro (s : State) : Result :=
  match s.micro with
  | .routine .barometer fr t => deliver .barometer t .baro (decodeBaro fr) s
  | _ => .refused .notDispatched

/-- DEC_UV (44_decoder.md R90), run where DECODE stands at a UV frame. -/
def execDecUv (s : State) : Result :=
  match s.micro with
  | .routine .uv fr t => deliver .uv t .uv (decodeUv fr) s
  | _ => .refused .notDispatched

/-- DEC_ANEMO (44_decoder.md R91), run where DECODE stands at an Anemometer frame. -/
def execDecAnemo (s : State) : Result :=
  match s.micro with
  | .routine .anemometer fr t => deliver .anemometer t .anemo (decodeAnemo fr) s
  | _ => .refused .notDispatched

/-- DEC_CLOCK (44_decoder.md R92), run where DECODE stands at a Clock frame. -/
def execDecClock (s : State) : Result :=
  match s.micro with
  | .routine .clock fr t => deliver .clock t .clock (decodeClock fr) s
  | _ => .refused .notDispatched

/-- The routine of the kind VALIDATE found (44_decoder.md R83); there is none for Unknown, which never reaches DECODE. -/
def runRoutine (kind : DeviceKind) (s : State) : Result :=
  match kind with
  | .rainfall => execDecRain s
  | .thermohygrometer => execDecThermo s
  | .barometer => execDecBaro s
  | .uv => execDecUv s
  | .anemometer => execDecAnemo s
  | .clock => execDecClock s
  | .unknown => .refused .notDispatched

/-- DECODE (44_decoder.md R83): one of the six routines by the kind. At the command port its code is illegal (45_pipeline.md R108). -/
def execDecode (s : State) : Result :=
  match s.micro with
  | .decode kind fr t => runRoutine kind (s.goto (.routine kind fr t))
  | _ => illegal s

end Sys2Proof.Machine
end

