-- ==== Sys2Proof/Machine/Synchronizer.lean ====
section
/-! DEFINITION. The FrameSynchronizer (42_synchronizer.md): APPEND, DELIM, EXTRACT, REQUEUE. -/

namespace Sys2Proof.Machine

/-- APPEND (42_synchronizer.md R68): the tests of `L` and `N`, then `SB <- SB ++ CH[2..N+2)`. With OVF set it does nothing, and a
result past BUF_CAP is not written but sets OVF (10_state.md R11). -/
def execAppend (s : State) : Result :=
  atPort s <|
    if s.ovfSet then .next (s.respond .faultOverflow)
    else if s.port.chunkLen.toNat > s.params.cap.toNat ∨ s.port.chunkLen.toNat < 1 then .next (s.respond .badChunk)
    else ofRead (byteAt s.port.ch 0) fun n =>
      if n < 1 ∨ n + 2 > s.port.chunkLen.toNat then .next (s.respond .badChunk)
      else
        match s.writeSB (s.sb ++ slice s.port.ch 2 (n + 2)) with
        | some s' => .next (s'.respond .ok)
        | none => .next (s.setOvf.respond .faultOverflow)

/-- What EXTRACT does with the end delimiter at `f` (42_synchronizer.md R69): an empty body is a warning, any other is the frame;
either way the indices below `f` are discarded. -/
def State.endBody (sup : Bool) (bodyStart f : Nat) (s : State) : State :=
  if f = bodyStart then (s.drain f).finish .emptyFrame false
  else (s.drain f).goto (.validate sup (slice s.sb bodyStart f))

/-- DELIM (42_synchronizer.md R67, R69): the search for the next delimiter occurrence, from index 0 for the start marker and
from `bodyStart` for the end marker, and what EXTRACT does with its answer. -/
def execDelim (s : State) : Result :=
  match s.micro with
  | .seekStart sup =>
    match findDelim s.sb 0 with
    | none => .next (s.finish .noStart false)
    | some start => .next (s.goto (.seekEnd sup (start + 2)))
  | .seekEnd sup bodyStart =>
    match findDelim s.sb bodyStart with
    | none => .next (s.finish .noEnd false)
    | some f => .next (s.endBody sup bodyStart f)
  | _ => .refused .notDispatched

/-- EXTRACT (42_synchronizer.md R69): the search for the start delimiter and, where there is one, the search for the end
delimiter. At the command port its code is illegal (45_pipeline.md R108). -/
def execExtract (s : State) : Result :=
  match s.micro with
  | .extract sup =>
    andThen (execDelim (s.goto (.seekStart sup))) fun s1 =>
      match s1.micro with
      | .seekEnd _ _ => execDelim s1
      | _ => .next s1
  | _ => illegal s

/-- REQUEUE (42_synchronizer.md R70): `SB <- e ++ SB`, and back to VALIDATE with T = 1 (43_validator.md R78). A result past BUF_CAP
is not written, sets OVF and ends the command (10_state.md R11; DEDUCED, log entry 11). At the command port its code is illegal
(45_pipeline.md R108). -/
def execRequeue (s : State) : Result :=
  match s.micro with
  | .requeue sup kind fr extra =>
    match s.writeSB (extra ++ s.sb) with
    | some s' => .next (s'.goto (.check sup kind fr true))
    | none => .next (s.setOvf.finish .faultOverflow false)
  | _ => illegal s

end Sys2Proof.Machine
end

