-- ==== Sys2Proof/Machine/Validator.lean ====
section
/-! DEFINITION. The FrameValidator (43_validator.md): VALIDATE and the default row DEC_UNKNOWN. -/

namespace Sys2Proof.Machine

/-- DEC_UNKNOWN (43_validator.md R77, 60_exceptions.md R114): no decoder runs, VALIDATE fails with `UnknownDevice(code)`; `code` is
the frame's byte 1. -/
def execDecUnknown (code : Byte) (s : State) : Result :=
  match s.micro with
  | .unknown sup fr =>
    if fr[1]? = some code then .next (s.report sup fr false (.unknownDevice code.toNat))
    else .refused .notDispatched
  | _ => .refused .notDispatched

/-- The checksum in the last two bytes of a frame, little-endian (30_encoding.md R41, 43_validator.md R80). -/
def expectedSum (fr : List Byte) : Except ReadError Nat := wordAt fr (fr.length - 2)

/-- The sum of the bytes 0 to n-3 of a frame of n bytes (43_validator.md R80). -/
def actualSum (fr : List Byte) : Nat := byteSum (fr.take (fr.length - 2))

/-- Steps 4 and 5 of VALIDATE (43_validator.md R79, R80): a short frame, then the checksum. -/
def validateCheck (sup : Bool) (kind : DeviceKind) (fr : List Byte) (t : Bool) (s : State) : Result :=
  match expectedLength kind with
  | none => .refused .notDispatched
  | some expected =>
    if fr.length < expected then .next (s.report sup fr t (.frameLengthMismatch fr.length expected))
    else ofRead (expectedSum fr) fun want =>
      if want ≠ actualSum fr then .next (s.report sup fr t (.checksumMismatch want (actualSum fr)))
      else .next (s.goto (.decode kind fr t))

/-- Step 3 of VALIDATE on a frame longer than expected (43_validator.md R78): REQUEUE of the surplus, the frame cut, T set, and
the tests go on. -/
def validateTruncate (sup : Bool) (kind : DeviceKind) (expected : Nat) (fr : List Byte) (s : State) : Result :=
  andThen (execRequeue (s.goto (.requeue sup kind (fr.take expected) (fr.drop expected)))) fun s1 =>
    match s1.micro with
    | .check sup1 kind1 fr1 t1 => validateCheck sup1 kind1 fr1 t1 s1
    | _ => .next s1

/-- VALIDATE (43_validator.md R75), in the rule's order of tests: runt, unknown device, oversized, short, checksum. It resumes at
step 4 where REQUEUE left it. At the command port its code is illegal (45_pipeline.md R108). -/
def execValidate (s : State) : Result :=
  match s.micro with
  | .validate sup fr =>
    match fr[1]? with
    | none => .next (s.report sup fr false (.runtFrame fr.length))
    | some code =>
      match expectedLength (lookup s.params code) with
      | none => execDecUnknown code (s.goto (.unknown sup fr))
      | some expected =>
        if fr.length > expected then validateTruncate sup (lookup s.params code) expected fr s
        else validateCheck sup (lookup s.params code) fr false (s.goto (.check sup (lookup s.params code) fr false))
  | .check sup kind fr t => validateCheck sup kind fr t s
  | _ => illegal s

end Sys2Proof.Machine
end

