-- ==== Sys2Proof/Machine/Pipeline.lean ====
section
/-! DEFINITION. The host commands NOP, RESET and POLL, the micro-operation EMIT, and the sequencer of a POLL (45_pipeline.md). -/

namespace Sys2Proof.Machine

/-- NOP (45_pipeline.md R100). -/
def execNop (s : State) : Result := atPort s (.next (s.respond .ok))

/-- RESET, the command (45_pipeline.md R101): the same effect as the `rst` pin. -/
def execReset (s : State) : Result := atPort s (.next s.clear)

/-- EMIT (45_pipeline.md R103): `out <- rec`, `out_valid <- 1`; POLL then ends with the pulse and the status of the record
(R102, R106). At the command port its code is illegal (R108). -/
def execEmit (s : State) : Result :=
  match s.micro with
  | .emit rec => .next { s with out := some rec, validPulse := rec.pulse, status := rec.status, micro := .idle }
  | _ => illegal s

/-- The instruction a command in progress stands at; none between commands (46_laws.md R151). The decode routine is chosen by
VALIDATE's kind (44_decoder.md R83), DEC_UNKNOWN by the frame's byte 1. -/
def State.current (s : State) : Option Instr :=
  match s.micro with
  | .idle => none
  | .extract _ => some .extract
  | .seekStart _ => some .delim
  | .seekEnd _ _ => some .delim
  | .validate _ _ => some .validate
  | .unknown _ fr => some (.decUnknown (fr.getD 1 0))
  | .requeue _ _ _ _ => some .requeue
  | .check _ _ _ _ => some .validate
  | .decode _ _ _ => some .decode
  | .routine kind fr _ => some (routineOf kind (fr.getD 1 0))
  | .emit _ => some .emit

/-- The meaning of the instruction a command in progress stands at. -/
def microStep (s : State) : Result :=
  match s.micro with
  | .idle => .next s
  | .extract _ => execExtract s
  | .seekStart _ => execDelim s
  | .seekEnd _ _ => execDelim s
  | .validate _ _ => execValidate s
  | .unknown _ fr => execDecUnknown (fr.getD 1 0) s
  | .requeue _ _ _ _ => execRequeue s
  | .check _ _ _ _ => execValidate s
  | .decode _ _ _ => execDecode s
  | .routine kind _ _ => runRoutine kind s
  | .emit _ => execEmit s

/-- At most `n` micro-operations, to the end of the command. -/
def runMicro : Nat → State → Result
  | 0, s => .next s
  | n + 1, s =>
    match s.micro with
    | .idle => .next s
    | _ => andThen (microStep s) (runMicro n)

/-- POLL (45_pipeline.md R102): EXTRACT, on a frame VALIDATE, on success DECODE, then EMIT, to completion (20_memory.md R30). With
OVF set it does nothing (10_state.md R11). -/
def execPoll (s : State) : Result :=
  atPort s <|
    if s.ovfSet then .next (s.respond .faultOverflow)
    else runMicro 4 s.startPoll

end Sys2Proof.Machine
end

