-- ==== Sys2Proof/Machine/Reserved.lean ====
section
/-! DEFINITION. The reserved op codes 0x9 to 0xF (30_encoding.md R38): each is refused with ST_ILLEGAL_CMD (45_pipeline.md R108). -/

namespace Sys2Proof.Machine

/-- RESERVED_9 (45_pipeline.md R108). -/
def execReserved9 (s : State) : Result := illegal s

/-- RESERVED_A (45_pipeline.md R108). -/
def execReservedA (s : State) : Result := illegal s

/-- RESERVED_B (45_pipeline.md R108). -/
def execReservedB (s : State) : Result := illegal s

/-- RESERVED_C (45_pipeline.md R108). -/
def execReservedC (s : State) : Result := illegal s

/-- RESERVED_D (45_pipeline.md R108). -/
def execReservedD (s : State) : Result := illegal s

/-- RESERVED_E (45_pipeline.md R108). -/
def execReservedE (s : State) : Result := illegal s

/-- RESERVED_F (45_pipeline.md R108). -/
def execReservedF (s : State) : Result := illegal s

end Sys2Proof.Machine
end

