-- ==== Sys2Proof/Machine/Dispatch.lean ====
section
/-! DEFINITION. One arm per row of the opcode table. -/

namespace Sys2Proof.Machine

def exec (i : Instr) (s : State) : Host.Outcome State Fault Refusal :=
  match i with
  | .nop => Sys2Proof.Machine.execNop s
  | .append => Sys2Proof.Machine.execAppend s
  | .poll => Sys2Proof.Machine.execPoll s
  | .reset => Sys2Proof.Machine.execReset s
  | .extract => Sys2Proof.Machine.execExtract s
  | .validate => Sys2Proof.Machine.execValidate s
  | .requeue => Sys2Proof.Machine.execRequeue s
  | .decode => Sys2Proof.Machine.execDecode s
  | .emit => Sys2Proof.Machine.execEmit s
  | .reserved9 => Sys2Proof.Machine.execReserved9 s
  | .reservedA => Sys2Proof.Machine.execReservedA s
  | .reservedB => Sys2Proof.Machine.execReservedB s
  | .reservedC => Sys2Proof.Machine.execReservedC s
  | .reservedD => Sys2Proof.Machine.execReservedD s
  | .reservedE => Sys2Proof.Machine.execReservedE s
  | .reservedF => Sys2Proof.Machine.execReservedF s
  | .delim => Sys2Proof.Machine.execDelim s
  | .decRain => Sys2Proof.Machine.execDecRain s
  | .decThermo => Sys2Proof.Machine.execDecThermo s
  | .decBaro => Sys2Proof.Machine.execDecBaro s
  | .decUv => Sys2Proof.Machine.execDecUv s
  | .decAnemo => Sys2Proof.Machine.execDecAnemo s
  | .decClock => Sys2Proof.Machine.execDecClock s
  | .decUnknown code => Sys2Proof.Machine.execDecUnknown code s

end Sys2Proof.Machine
end

