-- ==== Sys2Proof/Machine/Fetch.lean ====
section
/-! DEFINITION. Where the next instruction comes from: a transaction on the command port, the bytes of SB, or the device code of
a frame (30_encoding.md section 9). -/

namespace Sys2Proof.Machine

/-- The host drives the pins of its next transaction (45_pipeline.md R99). -/
def State.present (p : Pins) (rest : List Pins) (s : State) : State := { s with port := p, pending := rest }

/-- The frame a device-code word stands for, every other byte 0: of the expected length of its kind, or just long enough to hold
the code where the kind is Unknown. -/
def frameOfCode (p : Params) (code : Byte) : List Byte :=
  0 :: code :: List.replicate ((expectedLength (lookup p code)).getD 2 - 2) 0

/-- The point of a POLL at which the block takes its next instruction from a frame of that device code. -/
def dispatchPoint (s : State) (code : Byte) : Micro :=
  match lookup s.params code with
  | .unknown => .unknown s.port.suppress (frameOfCode s.params code)
  | k => .routine k (frameOfCode s.params code) false

/-- A word of the opcode table put where `step` takes its next instruction from (log entry 6): a command word as the host's next
transaction, the other pins as they are; a stream word at the front of SB, the block before its search for the start delimiter; a
device code as byte 1 of the frame, the block before the routine of its kind. -/
def State.place (sp : Space) (bytes : List Byte) (s : State) : State :=
  match sp, bytes with
  | .command, b :: _ =>
    { s with micro := .idle, pending := { s.port with rst := false, op := b.setWidth 4 } :: s.pending }
  | .stream, x :: y :: _ =>
    { s with micro := .seekStart s.port.suppress, sb := x :: y :: s.sb.drop 2 }
  | .frame, b :: _ => { s with micro := dispatchPoint s b }
  | _, _ => s

end Sys2Proof.Machine
end

