-- ==== Sys2Proof/Machine/Step.lean ====
section
/-! DEFINITION. One step of the machine. -/

namespace Sys2Proof.Machine

/-- One step. A command in progress goes on with the instruction it stands at. Otherwise the host presents its next transaction:
with `rst` asserted no command is accepted and the block is reset (70_reset_and_hazards.md R127), else the command is performed to
completion (45_pipeline.md R99). A host that presents nothing leaves the block as it is (60_exceptions.md R121). -/
def step (s : State) : Host.Outcome State Fault Refusal :=
  match s.current with
  | some i => exec i s
  | none =>
    match s.pending with
    | [] => .next s
    | p :: rest =>
      if p.rst then .next (s.present p rest).clear
      else exec (decodeOp p.op) (s.present p rest)

/-- The state with a word of the opcode table as the next instruction (log entry 6). -/
def State.withFetchWord (s : State) (nbits w : Nat) : State :=
  s.place (tableWord nbits w).1 (tableWord nbits w).2

end Sys2Proof.Machine
end

