-- ==== Sys2Proof/Machine/Reference.lean ====
section
/-! DEFINITION. The pseudocode of EXTRACT, VALIDATE, DECODE and POLL as pure functions, written once more from the rules and
without the sequencer, so that claims can compare the meanings with it. No meaning calls it. -/

namespace Sys2Proof.Machine

/-- The four outcomes of EXTRACT (42_synchronizer.md R69). -/
inductive ExtractOutcome where
  | noStart
  | noEnd
  | empty
  | frame (fr : List Byte)
deriving DecidableEq, Repr

/-- EXTRACT on a content of SB: the outcome and SB after it (42_synchronizer.md R69). -/
def extractRef (sb : List Byte) : ExtractOutcome × List Byte :=
  match findDelim sb 0 with
  | none => (.noStart, sb)
  | some start =>
    match findDelim sb (start + 2) with
    | none => (.noEnd, sb)
    | some f =>
      if f = start + 2 then (.empty, sb.drop f)
      else (.frame (slice sb (start + 2) f), sb.drop f)

/-- The result of VALIDATE (43_validator.md R75), with the overflow of its REQUEUE under a finite BUF_CAP (10_state.md R11). -/
inductive Verdict where
  | ok (kind : DeviceKind) (fr : List Byte) (t : Bool)
  | err (e : ValidationError) (fr : List Byte) (t : Bool)
  | overflow
deriving DecidableEq, Repr

/-- Steps 4 and 5 of VALIDATE (43_validator.md R79, R80). -/
def checkRef (kind : DeviceKind) (expected : Nat) (fr : List Byte) (t : Bool) : Except ReadError Verdict :=
  if fr.length < expected then .ok (.err (.frameLengthMismatch fr.length expected) fr t)
  else do
    let lo ← byteAt fr (fr.length - 2)
    let hi ← byteAt fr (fr.length - 1)
    let want := lo + 256 * hi
    let got := byteSum (slice fr 0 (fr.length - 2))
    .ok (if want ≠ got then .err (.checksumMismatch want got) fr t else .ok kind fr t)

/-- VALIDATE on a frame and the content of SB: the result and SB after it (43_validator.md R75). `room` tells which contents keep
within BUF_CAP. -/
def validateRef (p : Params) (room : List Byte → Bool) (fr sb : List Byte) : Except ReadError (Verdict × List Byte) :=
  if fr.length < 2 then .ok (.err (.runtFrame fr.length) fr false, sb)
  else do
    let code ← byteAt fr 1
    let kind := lookup p (BitVec.ofNat 8 code)
    match expectedLength kind with
    | none => .ok (.err (.unknownDevice code) fr false, sb)
    | some expected =>
      if fr.length > expected then
        if room (fr.drop expected ++ sb) then do
          let v ← checkRef kind expected (fr.take expected) true
          .ok (v, fr.drop expected ++ sb)
        else .ok (.overflow, sb)
      else do
        let v ← checkRef kind expected fr false
        .ok (v, sb)

/-- DECODE (44_decoder.md R83); there is no routine for Unknown. -/
def decodeRef (kind : DeviceKind) (fr : List Byte) : Except ReadError (Option Reading) :=
  match kind with
  | .rainfall => (decodeRain fr).map fun r => some (.rain r)
  | .thermohygrometer => (decodeThermo fr).map fun r => some (.thermo r)
  | .barometer => (decodeBaro fr).map fun r => some (.baro r)
  | .uv => (decodeUv fr).map fun r => some (.uv r)
  | .anemometer => (decodeAnemo fr).map fun r => some (.anemo r)
  | .clock => (decodeClock fr).map fun r => some (.clock r)
  | .unknown => .ok none

/-- What the host gets back from a POLL, with SB and OVF after it. -/
structure PollResponse where
  status : BitVec 5
  out : Option OutRecord
  validPulse : Bool
  sb : List Byte
  ovf : Bool
deriving DecidableEq, Repr

/-- POLL's case split on VALIDATE's result (45_pipeline.md R102). -/
def answerRef (sup ovf : Bool) (sb : List Byte) : Verdict → Except ReadError PollResponse
  | .ok kind fr t => do
    let rd ← decodeRef kind fr
    .ok { status := statusWord .reading t, out := rd.map (.reading kind t), validPulse := true, sb := sb, ovf := ovf }
  | .err e fr t =>
    .ok { status := statusWord e.code t, out := if sup then none else some (e.record t fr), validPulse := false, sb := sb, ovf := ovf }
  | .overflow => .ok { status := statusWord .faultOverflow false, out := none, validPulse := false, sb := sb, ovf := true }

/-- POLL (45_pipeline.md R102) on the values it reads. -/
def pollRef (p : Params) (room : List Byte → Bool) (sup ovf : Bool) (sb : List Byte) : Except ReadError PollResponse :=
  match extractRef sb with
  | (.noStart, sb') =>
    .ok { status := statusWord .noStart false, out := none, validPulse := false, sb := sb', ovf := ovf }
  | (.noEnd, sb') =>
    .ok { status := statusWord .noEnd false, out := none, validPulse := false, sb := sb', ovf := ovf }
  | (.empty, sb') =>
    .ok { status := statusWord .emptyFrame false, out := none, validPulse := false, sb := sb', ovf := ovf }
  | (.frame fr, sb') => do
    let vs ← validateRef p room fr sb'
    answerRef sup ovf vs.2 vs.1

end Sys2Proof.Machine
end

