-- ==== Sys2Proof/Machine/Session.lean ====
section
/-! DEFINITION. The host's side (30_encoding.md R55, 45_pipeline.md R107, 70_reset_and_hazards.md R154, R155): transactions, the
pseudo-commands FEED, CK and PUMP, and what a finite run observes. No meaning calls it. -/

namespace Sys2Proof.Machine

/-- `NOP` (30_encoding.md R55). -/
def cmdNop : Pins := Pins.idle

/-- `APPEND b0 b1 ...`: the chunk is the bytes listed, L their count (30_encoding.md R55). DESIGN CHOICE (log entry 13), for a listing
of 128 or more bytes, whose count chunk_len's 7 bits (10_state.md R19) cannot carry and for which R55 does not say what is presented:
chunk_len is the count mod 128, so 131 bytes are presented with L = 3. Unsafe for such a listing; it is not `Pins.Truthful`, and it is
no RawChunk under any CAP (30_encoding.md R39). -/
def cmdAppend (bytes : List Byte) : Pins :=
  { Pins.idle with op := 1, chunk := bytes, chunkLen := BitVec.ofNat 7 bytes.length }

/-- `POLL`, or `POLL S=0` (30_encoding.md R55). -/
def cmdPoll (suppress : Bool) : Pins := { Pins.idle with op := 2, suppress := suppress }

/-- `RESET` (30_encoding.md R55). -/
def cmdReset : Pins := { Pins.idle with op := 3 }

/-- The `rst` pin asserted (70_reset_and_hazards.md R127). -/
def pinReset : Pins := { Pins.idle with rst := true }

/-- The host's duty on a chunk: `L` is the true count of bytes present (70_reset_and_hazards.md R154). -/
abbrev Pins.Truthful (p : Pins) : Prop := p.chunkLen.toNat = p.chunk.length

/-- The chunk of one FEED: the count, report id 00, the payload, 00 filler up to CAP (30_encoding.md R55). -/
def feedChunk (cap : Nat) (payload : List Byte) : List Byte :=
  BitVec.ofNat 8 payload.length :: 0 :: payload ++ List.replicate (cap - 2 - payload.length) 0

/-- A payload split left to right into pieces of `k` bytes, at most `n` of them. -/
def pieces (k : Nat) : Nat → List Byte → List (List Byte)
  | 0, _ => []
  | n + 1, q => if q = [] then [] else q.take k :: pieces k n (q.drop k)

/-- `FEED p0 p1 ...` (30_encoding.md R55). DESIGN CHOICE (log entry 12), for two cases R55 gives no expansion for: a FEED with an
empty payload issues no APPEND, and with CAP 2 or less, whose pieces would hold CAP-2 = 0 bytes, a FEED issues one APPEND of a chunk
`00 00` without payload for each payload byte. Safe: APPEND itself rejects each such chunk (42_synchronizer.md R68), and no meaning
calls this. -/
def feed (cap : Nat) (payload : List Byte) : List Pins :=
  (pieces (cap - 2) payload.length payload).map fun q => cmdAppend (feedChunk cap q)

/-- `CK(b0 ... bk)`: the bytes followed by their two trailer bytes (30_encoding.md R55). DESIGN CHOICE (log entry 13), for a sum of
65536 or more, whose `s div 256` is no byte: the second trailer byte is `s div 256` mod 256. Unsafe for such a sum; a frame's sum is at
most 3825 (43_validator.md R81). -/
def withTrailer (q : List Byte) : List Byte :=
  q ++ [BitVec.ofNat 8 (byteSum q % 256), BitVec.ofNat 8 (byteSum q / 256)]

/-- The response the host gets back from a command (70_reset_and_hazards.md R155). -/
structure Response where
  status : BitVec 5
  out : Option OutRecord
  validPulse : Bool
deriving DecidableEq, Repr

/-- The response of the command just performed (45_pipeline.md R99). -/
def State.response (s : State) : Response := { status := s.status, out := s.out, validPulse := s.validPulse }

/-- Another POLL without an APPEND changes nothing: the last POLL gave ST_NO_START or ST_NO_END (70_reset_and_hazards.md R155). -/
def State.drained (s : State) : Bool :=
  s.status.setWidth 4 == StatusCode.noStart.bits || s.status.setWidth 4 == StatusCode.noEnd.bits

/-- One POLL of the host's with a value on SUPPRESS. -/
def pollOnce (suppress : Bool) (s : State) : Result := exec .poll { s with port := cmdPoll suppress }

/-- PUMP (45_pipeline.md R107): POLL until ST_NO_START or ST_NO_END, at most `n` times; the responses in order and the last
state, none where `n` POLLs do not suffice or one of them stops. -/
def pump (suppress : Bool) : Nat → State → Option (List Response × State)
  | 0, _ => none
  | n + 1, s =>
    match pollOnce suppress s with
    | .next t =>
      if t.drained then some ([t.response], t)
      else (pump suppress n t).map fun r => (t.response :: r.1, r.2)
    | _ => none

/-- A finite run of `n` steps: the response of each in order and the last state, none where a step stops. A run of
70_reset_and_hazards.md R155 has `n` the number of transactions pending; a step past the last one leaves the state (log entry 4) and
so lists the last response again. -/
def session : Nat → State → Option (List Response × State)
  | 0, s => some ([], s)
  | n + 1, s =>
    match step s with
    | .next t => (session n t).map fun r => (t.response :: r.1, r.2)
    | _ => none

end Sys2Proof.Machine
end

