-- ==== Sys2Proof/Safety.lean ====
section
/-! DEFINITION. What a safe state of the block is, in the terms the claims use. -/

namespace Sys2Proof.Machine

/-- A frame whose kind is known and whose length is the registry's (44_decoder.md R83). -/
abbrev Validated (kind : DeviceKind) (fr : List Byte) : Prop := expectedLength kind = some fr.length

/-- An optional heat index within its widths (45_pipeline.md R104). -/
abbrev HeatFits : Option HeatIndex → Prop
  | none => True
  | some h => h.heatMag < 2 ^ 12 ∧ -(2 ^ 12 : Int) ≤ h.heatX10 ∧ h.heatX10 < 2 ^ 12

/-- An optional wind chill within its widths (45_pipeline.md R104). -/
abbrev ChillFits : Option WindChill → Prop
  | none => True
  | some c => c.chillMag < 2 ^ 8 ∧ -(2 ^ 8 : Int) ≤ c.chillVal ∧ c.chillVal < 2 ^ 8

/-- Every field of a reading within the width 45_pipeline.md R104 gives it; `s13` and `s9` are two's complement widths. -/
def Reading.Fits : Reading → Prop
  | .rain r =>
    r.batteryNib < 2 ^ 4 ∧ r.rate < 2 ^ 16 ∧ r.hourTotal < 2 ^ 16 ∧ r.dayTotal < 2 ^ 16 ∧ r.resetTotal < 2 ^ 16 ∧
      r.rMinute < 2 ^ 8 ∧ r.rHour < 2 ^ 8 ∧ r.rDay < 2 ^ 8 ∧ r.rMonth < 2 ^ 8 ∧ r.rYear < 2 ^ 12
  | .thermo r =>
    r.tempTrend < 2 ^ 2 ∧ r.humTrend < 2 ^ 2 ∧ r.sensor < 2 ^ 4 ∧ r.tempMag < 2 ^ 12 ∧
      -(2 ^ 12 : Int) ≤ r.tempX10 ∧ r.tempX10 < 2 ^ 12 ∧ r.humidity < 2 ^ 8 ∧ r.dewMag < 2 ^ 12 ∧
      -(2 ^ 12 : Int) ≤ r.dewX10 ∧ r.dewX10 < 2 ^ 12 ∧ HeatFits r.heat
  | .baro r => r.pAbs < 2 ^ 12 ∧ r.pRel < 2 ^ 12 ∧ r.forecastIdx < 2 ^ 4 ∧ r.previousIdx < 2 ^ 4
  | .uv r => r.batteryNib < 2 ^ 4 ∧ r.uvIndex < 2 ^ 8
  | .anemo r =>
    r.batteryNib < 2 ^ 4 ∧ r.dirIdx < 2 ^ 4 ∧ r.degX10 < 2 ^ 12 ∧ r.gustX10 < 2 ^ 12 ∧ r.avgX10 < 2 ^ 12 ∧ ChillFits r.chill
  | .clock r =>
    r.minute < 2 ^ 8 ∧ r.hour < 2 ^ 8 ∧ r.day < 2 ^ 8 ∧ r.month < 2 ^ 8 ∧ r.year < 2 ^ 12 ∧ r.tzRaw < 2 ^ 8

/-- A record POLL may deliver: a Reading of its kind's fields, or an Invalid record with one of the four error codes, `trunc` only
with a checksum error, and `count` the length of the dump (45_pipeline.md R104, R105, 60_exceptions.md R110). -/
def OutRecord.Ok : OutRecord → Prop
  | .reading kind _ rd => rd.kind = kind ∧ rd.Fits
  | .invalid err trunc info1 info2 count dump =>
    (err = .errRunt ∨ err = .errUnknownDevice ∨ err = .errLength ∨ err = .errChecksum) ∧
      (trunc = true → err = .errChecksum) ∧ info1 < 2 ^ 16 ∧ info2 < 2 ^ 16 ∧ count = dump.length ∧ 1 ≤ count

/-- What holds of the transient values at each point of a command in progress (42_synchronizer.md R71, 43_validator.md R75,
44_decoder.md R83). -/
def Micro.Ok (p : Params) (sb : List Byte) : Micro → Prop
  | .idle => True
  | .extract _ => True
  | .seekStart _ => True
  | .seekEnd _ bodyStart => 2 ≤ bodyStart ∧ bodyStart ≤ sb.length
  | .validate _ fr => 1 ≤ fr.length
  | .unknown _ fr => 2 ≤ fr.length ∧ (fr[1]?).map (lookup p) = some .unknown
  | .requeue _ kind fr extra => Validated kind fr ∧ 1 ≤ extra.length
  | .check _ kind fr t =>
    2 ≤ fr.length ∧ ∃ n, expectedLength kind = some n ∧ fr.length ≤ n ∧ (t = true → fr.length = n)
  | .decode kind fr _ => Validated kind fr
  | .routine kind fr _ => Validated kind fr
  | .emit rec => rec.Ok

/-- The outputs between commands (45_pipeline.md R102, R106, 60_exceptions.md R110): the status is a code of the table, T
accompanies only ST_READING and ST_ERR_CHECKSUM, `valid_pulse` is 1 exactly with ST_READING, and a record is one POLL may deliver,
with its own status. -/
def OutputsOk (s : State) : Prop :=
  (∃ code t, s.status = statusWord code t ∧ (t = true → code = .reading ∨ code = .errChecksum) ∧
    (s.validPulse = true ↔ code = .reading)) ∧
  (∀ rec, s.out = some rec → rec.Ok ∧ s.status = rec.status) ∧
  (s.validPulse = true → s.out.isSome = true)

/-- The invariant of the block: SB keeps within BUF_CAP, OVF is 0 where BUF_CAP is unbounded (10_state.md R9, R11), the transient
values are those of the point reached, and the outputs between commands are sound; during a POLL the outputs are clear. -/
def Inv (s : State) : Prop :=
  s.fits s.sb = true ∧ (s.params.bufCap = none → s.ovf = false) ∧ s.micro.Ok s.params s.sb ∧
    (s.micro = .idle → OutputsOk s) ∧ (s.micro ≠ .idle → s.out = none ∧ s.validPulse = false)

/-- `q` holds no delimiter occurrence (30_encoding.md R40). -/
def DelimFree (q : List Byte) : Prop := ∀ i, ¬ (q[i]? = some (0xFF : Byte) ∧ q[i + 1]? = some (0xFF : Byte))

/-- `q` holds no delimiter occurrence and would hold none with an FF after it: no occurrence, and its last byte is not FF
(42_synchronizer.md R71). -/
def Clean (q : List Byte) : Prop := DelimFree q ∧ q.getLast? ≠ some (0xFF : Byte)

/-- The answer is the next state `t`, the model's own field `phases` aside, about which it says nothing (log entry 5). -/
def Completes (r : Result) (t : State) : Prop := ∃ ph, r = .next { t with phases := ph }

/-- The pins, the parameters and the host's coming transactions are as they were: no rule writes an input (10_state.md R15). -/
def KeepsInputs (s t : State) : Prop := t.params = s.params ∧ t.port = s.port ∧ t.pending = s.pending

/-- The bits of a validated frame its decoder reads, one mask per byte (30_encoding.md R43 to R48). -/
def readMask : DeviceKind → List Byte
  | .rainfall => [0xF0, 0, 0xFF, 0xFF, 0xFF, 0xFF, 0xFF, 0xFF, 0xFF, 0xFF, 0xFF, 0xFF, 0xFF, 0xFF, 0xFF, 0, 0]
  | .thermohygrometer => [0x70, 0, 0x0F, 0xFF, 0xFF, 0xFF, 0xFF, 0xFF, 0xFF, 0x2F, 0, 0]
  | .barometer => [0, 0, 0xFF, 0xFF, 0xFF, 0xFF, 0, 0]
  | .uv => [0xF0, 0, 0, 0xFF, 0, 0]
  | .anemometer => [0xF0, 0, 0x0F, 0, 0xFF, 0xFF, 0xFF, 0xFF, 0xA0, 0, 0]
  | .clock => [0xF0, 0, 0, 0, 0xFF, 0xFF, 0xFF, 0xFF, 0xFF, 0xFF, 0, 0]
  | .unknown => []

/-- Two frames that agree on every bit the decoder of a kind reads. -/
def AgreeOnReadBits (kind : DeviceKind) (a b : List Byte) : Prop :=
  a.zipWith (· &&& ·) (readMask kind) = b.zipWith (· &&& ·) (readMask kind)

/-- The instructions the spec lets write SB (10_state.md R10): APPEND, EXTRACT (and DELIM inside it), REQUEUE (and VALIDATE around
it), RESET, and POLL, which runs them. -/
def writesSB : Instr → Bool
  | .append => true
  | .poll => true
  | .reset => true
  | .extract => true
  | .validate => true
  | .requeue => true
  | .delim => true
  | _ => false

end Sys2Proof.Machine
end

