-- ==== Sys2Proof/Certificates/Slice0/Obligations.lean ====
section
/-! DEFINITION. The statements about the block, from the numbered rules of the spec. -/

open Sys2Proof Sys2Proof.Machine

/-! ## Host commands and the port -/

/-- 45_pipeline.md R100: NOP returns ST_OK, writes no state and delivers no record. -/
def Obligations.NopReportsOkAndWritesNothing : Prop :=
  ∀ s : State, s.micro = .idle →
    Completes (exec .nop s) { s with status := 0, out := none, validPulse := false }

/-- 45_pipeline.md R101: RESET empties SB, clears OVF and returns ST_OK; parameters, pins and coming transactions stay. -/
def Obligations.ResetEmptiesTheBuffer : Prop :=
  ∀ s : State, s.micro = .idle →
    Completes (exec .reset s) { s with sb := [], ovf := false, status := 0, out := none, validPulse := false, micro := .idle }

/-- 70_reset_and_hazards.md R127: with the `rst` pin asserted no command is accepted, whatever `op` says, and the effect is that
of a RESET command presented there. -/
def Obligations.RstPinActsAsResetCommand : Prop :=
  ∀ (s : State) (p : Pins) (rest : List Pins), s.micro = .idle → s.pending = p :: rest → p.rst = true →
    step s = exec .reset { s with port := p, pending := rest } ∧
    Completes (step s) { s with port := p, pending := rest, sb := [], ovf := false, status := 0, out := none,
                                validPulse := false, micro := .idle }

/-- 10_state.md R20: the machine after reset; the parameters and pins are log entries 1 to 3. -/
def Obligations.ResetStateIsTheSpecsInitialState : Prop :=
  State.reset.sb = [] ∧ State.reset.ovf = false ∧ State.reset.micro = .idle ∧ State.reset.status = statusWord .ok false ∧
    State.reset.outValid = false ∧ State.reset.validPulse = false ∧ State.reset.phase = 0

/-- 45_pipeline.md R108: an op code 0x4 to 0xF at the port, a micro-operation's or a reserved one, is not performed:
ST_ILLEGAL_CMD, no record, no pulse, no state written, under a set OVF too. -/
def Obligations.IllegalCodesAreRefusedWithoutEffect : Prop :=
  ∀ s : State, s.micro = .idle →
    (∀ op : BitVec 4, 4 ≤ op.toNat →
      Completes (exec (decodeOp op) s) { s with status := 10, out := none, validPulse := false }) ∧
    (∀ i ∈ ([.extract, .validate, .requeue, .decode, .emit, .reserved9, .reservedA, .reservedB, .reservedC, .reservedD,
        .reservedE, .reservedF] : List Instr),
      Completes (exec i s) { s with status := 10, out := none, validPulse := false })

/-- 42_synchronizer.md R68: with OVF not set and room in SB, APPEND appends the `N` payload bytes of a valid chunk in index order;
any other chunk is discarded with ST_BAD_CHUNK and SB unchanged. -/
def Obligations.AppendTakesValidChunksOnly : Prop :=
  ∀ s : State, s.micro = .idle → s.ovfSet = false →
    (∀ b : Byte, 1 ≤ s.port.chunkLen.toNat → s.port.chunkLen.toNat ≤ s.params.cap.toNat → s.port.ch[0]? = some b →
      1 ≤ b.toNat → b.toNat + 2 ≤ s.port.chunkLen.toNat →
      s.fits (s.sb ++ slice s.port.ch 2 (b.toNat + 2)) = true →
      Completes (exec .append s)
          { s with sb := s.sb ++ slice s.port.ch 2 (b.toNat + 2), status := 0, out := none, validPulse := false } ∧
        (slice s.port.ch 2 (b.toNat + 2)).length = b.toNat) ∧
    ((s.port.chunkLen.toNat > s.params.cap.toNat ∨ s.port.chunkLen.toNat < 1 ∨
        ∃ b : Byte, s.port.ch[0]? = some b ∧ (b.toNat < 1 ∨ b.toNat + 2 > s.port.chunkLen.toNat)) →
      Completes (exec .append s) { s with status := 1, out := none, validPulse := false })

/-- 10_state.md R10, 20_memory.md R33 (a): an APPEND leaves every byte already in SB where it was, and writes no input. -/
def Obligations.AppendLeavesEarlierBytes : Prop :=
  ∀ s t : State, exec .append s = .next t →
    (∀ i, i < s.sb.length → byteAt t.sb i = byteAt s.sb i) ∧ KeepsInputs s t ∧ t.micro = s.micro ∧
      t.out = none ∧ t.validPulse = false

/-- 10_state.md R11: under a finite BUF_CAP a result that does not fit is not written, sets OVF and gives ST_FAULT_OVERFLOW; OVF
stays until reset and stops APPEND and POLL only; with the unbounded default there is no such fault. That the overflowing REQUEUE
ends the command is an inference (log entry 11). -/
def Obligations.OverflowIsStickyUntilReset : Prop :=
  (∀ (s : State) (b : Byte), s.micro = .idle → s.ovfSet = false → 1 ≤ s.port.chunkLen.toNat →
      s.port.chunkLen.toNat ≤ s.params.cap.toNat → s.port.ch[0]? = some b → 1 ≤ b.toNat →
      b.toNat + 2 ≤ s.port.chunkLen.toNat → s.fits (s.sb ++ slice s.port.ch 2 (b.toNat + 2)) = false →
      Completes (exec .append s) { s with ovf := true, status := 11, out := none, validPulse := false }) ∧
  (∀ (s : State) (sup : Bool) (kind : DeviceKind) (fr extra : List Byte), s.micro = .requeue sup kind fr extra →
      s.fits (extra ++ s.sb) = false →
      Completes (exec .requeue s) { s with ovf := true, status := 11, micro := .idle }) ∧
  (∀ s : State, s.micro = .idle → s.ovfSet = true →
      Completes (exec .append s) { s with status := 11, out := none, validPulse := false } ∧
      Completes (exec .poll s) { s with status := 11, out := none, validPulse := false } ∧
      (∃ t, exec .nop s = .next t ∧ t.status = 0) ∧ (∃ t, exec .reset s = .next t ∧ t.status = 0 ∧ t.ovf = false) ∧
      (∀ op : BitVec 4, 4 ≤ op.toNat →
        Completes (exec (decodeOp op) s) { s with status := 10, out := none, validPulse := false })) ∧
  (∀ (i : Instr) (s t : State), exec i s = .next t → i ≠ .reset → s.ovf = true → t.ovf = true) ∧
  (∀ s : State, s.params.bufCap = none → s.ovfSet = false ∧ ∀ q, s.fits q = true)

/-! ## The synchronizer -/

/-- 42_synchronizer.md R67: `findDelim` gives the least index at or after `a` with a delimiter occurrence, none when there is none. -/
def Obligations.FindDelimIsTheLeastOccurrence : Prop :=
  ∀ (q : List Byte) (a : Nat),
    match findDelim q a with
    | some i =>
      a ≤ i ∧ i + 1 < q.length ∧ q[i]? = some (0xFF : Byte) ∧ q[i + 1]? = some (0xFF : Byte) ∧
        ∀ j, a ≤ j → j < i → ¬ (q[j]? = some (0xFF : Byte) ∧ q[j + 1]? = some (0xFF : Byte))
    | none => ∀ j, a ≤ j → ¬ (q[j]? = some (0xFF : Byte) ∧ q[j + 1]? = some (0xFF : Byte))

/-- 42_synchronizer.md R67, R69: DELIM searches from index 0 for the start marker, and from the body's start for the end marker,
and EXTRACT's case on the answer follows: no start, no end, an empty body drained, or the body taken as the frame and drained. -/
def Obligations.DelimSearchesForStartAndEnd : Prop :=
  (∀ (s : State) (sup : Bool), s.micro = .seekStart sup →
    match findDelim s.sb 0 with
    | none => Completes (exec .delim s) { s with status := 2, micro := .idle }
    | some i => Completes (exec .delim s) { s with micro := .seekEnd sup (i + 2) }) ∧
  (∀ (s : State) (sup : Bool) (bodyStart : Nat), s.micro = .seekEnd sup bodyStart →
    match findDelim s.sb bodyStart with
    | none => Completes (exec .delim s) { s with status := 3, micro := .idle }
    | some f =>
      if f = bodyStart then Completes (exec .delim s) { s with sb := s.sb.drop f, status := 4, micro := .idle }
      else Completes (exec .delim s) { s with sb := s.sb.drop f, micro := .validate sup (slice s.sb bodyStart f) })

/-- 42_synchronizer.md R69: EXTRACT does what its pseudocode does: the same outcome of the four, the same SB, and nothing else
written but the status of an outcome without a frame. -/
def Obligations.ExtractFollowsItsPseudocode : Prop :=
  ∀ (s : State) (sup : Bool), s.micro = .extract sup →
    ∃ t, exec .extract s = .next t ∧ t.sb = (extractRef s.sb).2 ∧ KeepsInputs s t ∧ t.ovf = s.ovf ∧ t.out = s.out ∧
      t.validPulse = s.validPulse ∧
      match (extractRef s.sb).1 with
      | .noStart => t.micro = .idle ∧ t.status = 2
      | .noEnd => t.micro = .idle ∧ t.status = 3
      | .empty => t.micro = .idle ∧ t.status = 4
      | .frame fr => t.micro = .validate sup fr ∧ t.status = s.status

/-- 42_synchronizer.md R71: a frame EXTRACT hands to VALIDATE has a byte, holds no delimiter occurrence and does not end in FF;
its first byte may be FF. -/
def Obligations.ExtractedFramesAreClean : Prop :=
  (∀ (s t : State) (sup : Bool) (fr : List Byte), s.micro = .extract sup → exec .extract s = .next t →
    t.micro = .validate sup fr → 1 ≤ fr.length ∧ DelimFree fr ∧ fr.getLast? ≠ some (0xFF : Byte)) ∧
  (∃ (s t : State) (fr : List Byte), s.micro = .extract true ∧ exec .extract s = .next t ∧
    t.micro = .validate true fr ∧ fr[0]? = some (0xFF : Byte))

/-- 30_encoding.md R40, 42_synchronizer.md R69, source property P3: behind garbage without a delimiter, a body between two
delimiters, itself clean and not empty, is extracted exactly, the garbage is dropped and the second delimiter stays as the next
start marker. -/
def Obligations.ExtractTakesTheBodyBetweenDelimiters : Prop :=
  ∀ (s : State) (sup : Bool) (garbage body rest : List Byte), s.micro = .extract sup → Clean garbage → Clean body →
    body ≠ [] → s.sb = garbage ++ [0xFF, 0xFF] ++ body ++ [0xFF, 0xFF] ++ rest →
    ∃ t, exec .extract s = .next t ∧ t.micro = .validate sup body ∧ t.sb = [0xFF, 0xFF] ++ rest

/-- 42_synchronizer.md R72: whatever SB holds, an EXTRACT whose outcome is a frame or an empty body leaves SB beginning with a
delimiter occurrence; SB is what stood before it from there on, so every byte before the first occurrence found is gone. -/
def Obligations.ExtractResynchronisesAtADelimiter : Prop :=
  ∀ (s t : State) (sup : Bool), s.micro = .extract sup → exec .extract s = .next t →
    (t.micro = .idle ∧ t.status = 4 ∨ ∃ fr, t.micro = .validate sup fr) →
    ∃ i f, findDelim s.sb 0 = some i ∧ i + 2 ≤ f ∧ t.sb = s.sb.drop f ∧ findDelim t.sb 0 = some 0 ∧
      t.sb[0]? = some (0xFF : Byte) ∧ t.sb[1]? = some (0xFF : Byte)

/-- 42_synchronizer.md R70: with room in SB, REQUEUE prepends its bytes in order, and VALIDATE goes on with T = 1. -/
def Obligations.RequeuePrepends : Prop :=
  ∀ (s : State) (sup : Bool) (kind : DeviceKind) (fr extra : List Byte), s.micro = .requeue sup kind fr extra →
    s.fits (extra ++ s.sb) = true →
    Completes (exec .requeue s) { s with sb := extra ++ s.sb, micro := .check sup kind fr true }

/-! ## The validator -/

/-- 43_validator.md R75: VALIDATE does what its pseudocode does: the same result, the same SB, the error reported or handed to EMIT
by the sampled SUPPRESS, a validated frame handed to DECODE; an overflowing REQUEUE ends the command (log entry 11). -/
def Obligations.ValidateFollowsItsPseudocode : Prop :=
  ∀ (s : State) (sup : Bool) (fr : List Byte), s.micro = .validate sup fr →
    ∃ v q t, validateRef s.params s.fits fr s.sb = .ok (v, q) ∧ exec .validate s = .next t ∧ t.sb = q ∧ KeepsInputs s t ∧
      t.out = s.out ∧ t.validPulse = s.validPulse ∧
      match v with
      | .ok kind fr' tr => t.micro = .decode kind fr' tr ∧ t.status = s.status ∧ t.ovf = s.ovf
      | .err e fr' tr =>
        t.ovf = s.ovf ∧
          if sup then t.micro = .idle ∧ t.status = statusWord e.code tr
          else t.micro = .emit (e.record tr fr') ∧ t.status = s.status
      | .overflow => t.micro = .idle ∧ t.status = 11 ∧ t.ovf = true

/-- 43_validator.md R77: a frame of an unknown device code fails with UnknownDevice, whatever its length; SB is not written. -/
def Obligations.UnknownCodesFailWithoutLengthTest : Prop :=
  ∀ (s : State) (fr : List Byte) (code : Byte) (sup : Bool), fr[1]? = some code → lookup s.params code = .unknown →
    (s.micro = .validate sup fr →
      ∃ t, exec .validate s = .next t ∧ t.sb = s.sb ∧
        if sup then t.micro = .idle ∧ t.status = 7
        else t.micro = .emit (.invalid .errUnknownDevice false code.toNat 0 fr.length fr)) ∧
    (s.micro = .unknown sup fr →
      ∃ t, exec (.decUnknown code) s = .next t ∧ t.sb = s.sb ∧
        if sup then t.micro = .idle ∧ t.status = 7
        else t.micro = .emit (.invalid .errUnknownDevice false code.toNat 0 fr.length fr))

/-- 43_validator.md R76, 45_pipeline.md R105: a frame of one byte fails with RuntFrame, before byte 1 is read; SB is not written. -/
def Obligations.RuntFramesFail : Prop :=
  ∀ (s : State) (sup : Bool) (b : Byte), s.micro = .validate sup [b] →
    if sup then Completes (exec .validate s) { s with micro := .idle, status := 6 }
    else Completes (exec .validate s) { s with micro := .emit (.invalid .errRunt false 1 0 1 [b]) }

/-- 43_validator.md R79, 45_pipeline.md R105: a frame shorter than its kind's length fails with FrameLengthMismatch, which carries
both lengths; there is no checksum test and SB is not written. -/
def Obligations.ShortFramesFail : Prop :=
  ∀ (s : State) (sup : Bool) (fr : List Byte) (code : Byte) (n : Nat), s.micro = .validate sup fr → fr[1]? = some code →
    expectedLength (lookup s.params code) = some n → fr.length < n →
    if sup then Completes (exec .validate s) { s with micro := .idle, status := 8 }
    else Completes (exec .validate s) { s with micro := .emit (.invalid .errLength false fr.length n fr.length fr) }

/-- 43_validator.md R80, 45_pipeline.md R105: on a frame of a known code and the registry length the trailer, low byte first, is
compared with the sum of every byte before it; equal, the frame passes, else the error carries both sums. -/
def Obligations.ChecksumIsCompared : Prop :=
  ∀ (s : State) (sup : Bool) (q : List Byte) (code lo hi : Byte), s.micro = .validate sup (q ++ [lo, hi]) → q[1]? = some code →
    expectedLength (lookup s.params code) = some (q.length + 2) →
    if lo.toNat + 256 * hi.toNat = (q.map BitVec.toNat).sum then
      Completes (exec .validate s) { s with micro := .decode (lookup s.params code) (q ++ [lo, hi]) false }
    else if sup then Completes (exec .validate s) { s with micro := .idle, status := 9 }
    else Completes (exec .validate s) { s with micro := .emit (.invalid .errChecksum false (lo.toNat + 256 * hi.toNat)
      (q.map BitVec.toNat).sum (q.length + 2) (q ++ [lo, hi])) }

/-- 43_validator.md R80, source property P2: a frame of a known code and the registry length whose trailer is the little-endian sum
of the bytes before it passes VALIDATE, unchanged and without the annotation. -/
def Obligations.CorrectTrailerPassesValidation : Prop :=
  ∀ (s : State) (sup : Bool) (q : List Byte) (code : Byte), q[1]? = some code →
    expectedLength (lookup s.params code) = some (q.length + 2) → s.micro = .validate sup (withTrailer q) →
    Completes (exec .validate s) { s with micro := .decode (lookup s.params code) (withTrailer q) false }

/-- 43_validator.md R80, 70_reset_and_hazards.md R145: a single-bit error in a byte before the trailer, other than the device
code, of a frame that passes is always reported as a checksum mismatch. -/
def Obligations.SingleBitErrorsAreDetected : Prop :=
  ∀ (s : State) (sup : Bool) (q : List Byte) (code b : Byte) (i j : Nat), q[1]? = some code →
    expectedLength (lookup s.params code) = some (q.length + 2) → q[i]? = some b → i ≠ 1 → j < 8 →
    s.micro = .validate sup ((withTrailer q).set i (b ^^^ (1#8 <<< j))) →
    ∃ t actual, exec .validate s = .next t ∧ t.sb = s.sb ∧
      if sup then t.micro = .idle ∧ t.status = 9
      else t.micro = .emit (.invalid .errChecksum false (byteSum q) actual (q.length + 2)
        ((withTrailer q).set i (b ^^^ (1#8 <<< j))))

/-- 43_validator.md R78: an oversized frame of a known kind is cut to the expected length, its surplus goes back to the front of
SB in order, and the tests go on with T = 1: a correct trailer inside the cut frame passes, any other is a checksum error. -/
def Obligations.OversizedFramesAreCutAndRequeued : Prop :=
  ∀ (s : State) (sup : Bool) (fr : List Byte) (code : Byte) (n : Nat), s.micro = .validate sup fr → fr[1]? = some code →
    expectedLength (lookup s.params code) = some n → n < fr.length → s.fits (fr.drop n ++ s.sb) = true →
    ∃ t, exec .validate s = .next t ∧ t.sb = fr.drop n ++ s.sb ∧
      (expectedSum (fr.take n) = .ok (actualSum (fr.take n)) →
        t.micro = .decode (lookup s.params code) (fr.take n) true) ∧
      (expectedSum (fr.take n) ≠ .ok (actualSum (fr.take n)) →
        if sup then t.micro = .idle ∧ t.status = 25
        else ∃ want, t.micro = .emit (.invalid .errChecksum true want (actualSum (fr.take n)) n (fr.take n)))

/-- 43_validator.md R81: the trailer of a frame of a registry length is a 16-bit value, the sum is at most 3825 and equal to itself
mod 65536, and a trailer above 3825 never matches. -/
def Obligations.ChecksumSumsStaySmall : Prop :=
  ∀ (kind : DeviceKind) (fr : List Byte), Validated kind fr →
    ∃ want, expectedSum fr = .ok want ∧ want < 65536 ∧ actualSum fr ≤ 3825 ∧ actualSum fr % 65536 = actualSum fr ∧
      (3825 < want → want ≠ actualSum fr)

/-! ## The decoder -/

/-- 44_decoder.md R83, R84: on a validated frame DECODE never fails: it hands EMIT a Reading record of that kind, with the fields
its routine computes. -/
def Obligations.DecodeIsTotalOnValidatedFrames : Prop :=
  ∀ (s : State) (kind : DeviceKind) (fr : List Byte) (t : Bool), s.micro = .decode kind fr t → Validated kind fr →
    ∃ rd, decodeRef kind fr = .ok (some rd) ∧ rd.kind = kind ∧
      Completes (exec .decode s) { s with micro := .emit (.reading kind t rd) }

/-- 44_decoder.md R87: the Rainfall fields of a 17-byte frame. -/
def Obligations.RainfallFields : Prop :=
  ∀ (s : State) (t : Bool) (b0 b1 b2 b3 b4 b5 b6 b7 b8 b9 b10 b11 b12 b13 b14 b15 b16 : Byte),
    s.micro = .routine .rainfall [b0, b1, b2, b3, b4, b5, b6, b7, b8, b9, b10, b11, b12, b13, b14, b15, b16] t →
    Completes (exec .decRain s) { s with
        micro := .emit (.reading .rainfall t (.rain {
          batteryNib := b0.toNat / 16
          batteryOk := decide (b0.toNat / 16 < 4)
          rate := b2.toNat + 256 * b3.toNat
          hourTotal := b4.toNat + 256 * b5.toNat
          dayTotal := b6.toNat + 256 * b7.toNat
          resetTotal := b8.toNat + 256 * b9.toNat
          rMinute := b10.toNat
          rHour := b11.toNat
          rDay := b12.toNat
          rMonth := b13.toNat
          rYear := 2000 + b14.toNat })) }

/-- 44_decoder.md R88, R86, R94: the Thermohygrometer fields of a 12-byte frame; the heat index takes the dewpoint's sign and is
absent when bit 5 of byte 9 is 1. -/
def Obligations.ThermohygrometerFields : Prop :=
  ∀ (s : State) (t : Bool) (b0 b1 b2 b3 b4 b5 b6 b7 b8 b9 b10 b11 : Byte),
    s.micro = .routine .thermohygrometer [b0, b1, b2, b3, b4, b5, b6, b7, b8, b9, b10, b11] t →
    Completes (exec .decThermo s) { s with
        micro := .emit (.reading .thermohygrometer t (.thermo {
          batteryGood := !b0.getLsbD 6
          tempTrend := b0.toNat / 16 % 4
          humTrend := b2.toNat % 4
          sensor := b2.toNat % 16
          tempNeg := decide (b4.toNat / 16 ≠ 0)
          tempMag := b3.toNat + 256 * (b4.toNat % 16)
          tempX10 := if b4.toNat / 16 = 0 then (b3.toNat + 256 * (b4.toNat % 16) : Int)
            else -(b3.toNat + 256 * (b4.toNat % 16) : Int)
          humidity := b5.toNat
          dewNeg := decide (b7.toNat / 16 ≠ 0)
          dewMag := b6.toNat + 256 * (b7.toNat % 16)
          dewX10 := if b7.toNat / 16 = 0 then (b6.toNat + 256 * (b7.toNat % 16) : Int)
            else -(b6.toNat + 256 * (b7.toNat % 16) : Int)
          heat := if b9.getLsbD 5 then none
            else some {
              heatMag := b8.toNat + 256 * (b9.toNat % 16)
              heatX10 := if b7.toNat / 16 = 0 then (b8.toNat + 256 * (b9.toNat % 16) : Int)
                else -(b8.toNat + 256 * (b9.toNat % 16) : Int) } })) }

/-- 44_decoder.md R89: the Barometer fields of an 8-byte frame. -/
def Obligations.BarometerFields : Prop :=
  ∀ (s : State) (t : Bool) (b0 b1 b2 b3 b4 b5 b6 b7 : Byte),
    s.micro = .routine .barometer [b0, b1, b2, b3, b4, b5, b6, b7] t →
    Completes (exec .decBaro s) { s with
        micro := .emit (.reading .barometer t (.baro {
          pAbs := b2.toNat + 256 * (b3.toNat % 16)
          pRel := b4.toNat + 256 * (b5.toNat % 16)
          forecastIdx := b3.toNat / 16
          previousIdx := b5.toNat / 16 })) }

/-- 44_decoder.md R90: the UV fields of a 6-byte frame. -/
def Obligations.UvFields : Prop :=
  ∀ (s : State) (t : Bool) (b0 b1 b2 b3 b4 b5 : Byte),
    s.micro = .routine .uv [b0, b1, b2, b3, b4, b5] t →
    Completes (exec .decUv s) { s with
        micro := .emit (.reading .uv t (.uv {
          batteryNib := b0.toNat / 16
          batteryOk := decide (b0.toNat / 16 < 4)
          uvIndex := b3.toNat })) }

/-- 44_decoder.md R91, R86, R94: the Anemometer fields of an 11-byte frame; the wind chill is absent when bit 5 of byte 8 is 1 and
negative when bit 7 is 1. -/
def Obligations.AnemometerFields : Prop :=
  ∀ (s : State) (t : Bool) (b0 b1 b2 b3 b4 b5 b6 b7 b8 b9 b10 : Byte),
    s.micro = .routine .anemometer [b0, b1, b2, b3, b4, b5, b6, b7, b8, b9, b10] t →
    Completes (exec .decAnemo s) { s with
        micro := .emit (.reading .anemometer t (.anemo {
          batteryNib := b0.toNat / 16
          batteryOk := decide (b0.toNat / 16 < 4)
          dirIdx := b2.toNat % 16
          degX10 := 225 * (b2.toNat % 16)
          gustX10 := b4.toNat + 256 * (b5.toNat % 16)
          avgX10 := 16 * b6.toNat + b5.toNat / 16
          chill := if b8.getLsbD 5 then none
            else some {
              chillNeg := b8.getLsbD 7
              chillMag := b7.toNat
              chillVal := if b8.getLsbD 7 then -(b7.toNat : Int) else (b7.toNat : Int) } })) }

/-- 44_decoder.md R92, R98: the Clock fields of a 12-byte frame; the timezone byte is handed out raw. -/
def Obligations.ClockFields : Prop :=
  ∀ (s : State) (t : Bool) (b0 b1 b2 b3 b4 b5 b6 b7 b8 b9 b10 b11 : Byte),
    s.micro = .routine .clock [b0, b1, b2, b3, b4, b5, b6, b7, b8, b9, b10, b11] t →
    Completes (exec .decClock s) { s with
        micro := .emit (.reading .clock t (.clock {
          powered := !b0.getLsbD 7
          batteryGood := !b0.getLsbD 6
          rfSyncActive := b0.getLsbD 5
          rfSignalStrong := !b0.getLsbD 4
          minute := b4.toNat
          hour := b5.toNat
          day := b6.toNat
          month := b7.toNat
          year := 2000 + b8.toNat
          tzRaw := b9.toNat })) }

/-- 45_pipeline.md R104: every field of every reading of a validated frame fits the width the rule gives it. -/
def Obligations.ReadingsFitTheirWidths : Prop :=
  ∀ (kind : DeviceKind) (fr : List Byte), Validated kind fr → ∃ rd, decodeRef kind fr = .ok (some rd) ∧ rd.Fits

/-- 30_encoding.md R52: the record a frame decodes to is the same for every value of the bits its kind's format marks unused, of
the device code and of the checksum. -/
def Obligations.UnusedBitsDoNotChangeTheReading : Prop :=
  ∀ (kind : DeviceKind) (a b : List Byte), Validated kind a → Validated kind b → AgreeOnReadBits kind a b →
    decodeRef kind a = decodeRef kind b

/-! ## The accessors -/

/-- 40_bitbuffer.md R57, R58, R59, R61: what each accessor gives at an index inside the sequence. -/
def Obligations.AccessorsReadInside : Prop :=
  ∀ (q : List Byte) (pos : Nat) (b : Byte), q[pos]? = some b →
    byteAt q pos = .ok b.toNat ∧
    (∀ o n, 1 ≤ n → o + n ≤ 8 → bitsAt q pos o n = .ok (b.toNat / 2 ^ o % 2 ^ n)) ∧
    (∀ i, i < 8 → bitsAt q pos i 1 = .ok (b.getLsbD i).toNat) ∧
    nibbleAt q pos 0 = .ok (b.toNat % 16) ∧ nibbleAt q pos 1 = .ok (b.toNat / 16) ∧
    (∀ c : Byte, q[pos + 1]? = some c → wordAt q pos = .ok (b.toNat + 256 * c.toNat))

/-- 40_bitbuffer.md R57, R58, R59, R61, 93_implementation_defined.md U1 to U3: OutOfRange at or past the length, and no value outside
an accessor's domain. -/
def Obligations.AccessorsFailOutside : Prop :=
  ∀ (q : List Byte) (pos : Nat),
    (q.length ≤ pos → byteAt q pos = .error (.outOfRange pos q.length) ∧
      (∀ o n, 1 ≤ n → o + n ≤ 8 → bitsAt q pos o n = .error (.outOfRange pos q.length)) ∧
      (∀ o, o ≤ 1 → nibbleAt q pos o = .error (.outOfRange pos q.length)) ∧
      wordAt q pos = .error (.outOfRange pos q.length)) ∧
    (q.length = pos + 1 → wordAt q pos = .error (.outOfRange (pos + 1) q.length)) ∧
    (∀ o n, (n = 0 ∨ 8 < o + n) → bitsAt q pos o n = .error (.undefinedBitSpan o n)) ∧
    (∀ o, 2 ≤ o → nibbleAt q pos o = .error (.undefinedNibble o))

/-- 20_memory.md R24, 40_bitbuffer.md R60, 30_encoding.md R49: nibble runs against bytes and words. -/
def Obligations.NibbleRunsAreLowNibbleFirst : Prop :=
  ∀ (q : List Byte) (p : Nat) (b c : Byte), q[p]? = some b → q[p + 1]? = some c →
    nibbleRun q p 0 2 = byteAt q p ∧ nibbleRun q p 0 4 = wordAt q p ∧
      nibbleRun q p 0 3 = .ok (b.toNat + 256 * (c.toNat % 16)) ∧
      nibbleRun q p 1 3 = .ok (b.toNat / 16 + 16 * c.toNat)

/-- 40_bitbuffer.md R60, source property P1: a run of `count` nibbles inside the sequence is the number below 16^count whose digit
`j` to base 16 is the nibble `j` places after the first; a run that leaves the sequence is OutOfRange. The last clause, that an
offset of 2 or more is refused whatever the count, is not R60's: it is 40_bitbuffer.md R59's and 93_implementation_defined.md U2's
(log entry 9, DEDUCED). -/
def Obligations.NibbleRunsRoundTrip : Prop :=
  ∀ (q : List Byte) (p o count : Nat),
    (o ≤ 1 → 2 * p + o + count ≤ 2 * q.length →
      ∃ v, nibbleRun q p o count = .ok v ∧ v < 16 ^ count ∧
        ∀ j, j < count → v / 16 ^ j % 16 = (q.getD (p + (o + j) / 2) 0).toNat / 16 ^ ((o + j) % 2) % 16) ∧
    (o ≤ 1 → 1 ≤ count → 2 * q.length < 2 * p + o + count →
      ∃ pos, q.length ≤ pos ∧ nibbleRun q p o count = .error (.outOfRange pos q.length)) ∧
    (o ≤ 1 → nibbleRun q p o 0 = .ok 0) ∧
    (2 ≤ o → nibbleRun q p o count = .error (.undefinedNibble o))

/-! ## The pipeline -/

/-- 45_pipeline.md R103, R102, R106: EMIT delivers its record, and the POLL ends with the record's status and the pulse. -/
def Obligations.EmitDeliversTheRecord : Prop :=
  (∀ (s : State) (kind : DeviceKind) (t : Bool) (rd : Reading), s.micro = .emit (.reading kind t rd) →
    Completes (exec .emit s) { s with out := some (.reading kind t rd), validPulse := true,
                                      status := if t then 21 else 5, micro := .idle }) ∧
  (∀ (s : State) (e : ValidationError) (t : Bool) (fr : List Byte), s.micro = .emit (e.record t fr) →
    Completes (exec .emit s) { s with out := some (e.record t fr), validPulse := false,
                                      status := statusWord e.code t, micro := .idle })

/-- 45_pipeline.md R102: with OVF not set, POLL does what its pseudocode does, for every content of SB and either SUPPRESS: the
same status, record, pulse, SB and OVF (an overflowing REQUEUE as in log entry 11); it never faults, and it ends with no command
in progress. -/
def Obligations.PollRefinesItsPseudocode : Prop :=
  ∀ s : State, s.micro = .idle → s.ovfSet = false →
    ∃ r, pollRef s.params s.fits s.port.suppress s.ovf s.sb = .ok r ∧
      Completes (exec .poll s) { s with status := r.status, out := r.out, validPulse := r.validPulse, sb := r.sb,
                                        ovf := r.ovf, micro := .idle }

/-- 46_laws.md R151 (b), 60_exceptions.md R126: inside a POLL control moves in the fixed chain only, told by the values `phase`
takes: EXTRACT 4, VALIDATE 5, at most one REQUEUE 6 inside it, DECODE 7, EMIT 8; EMIT follows DECODE always. The field that records
them is the model's own (log entry 5). -/
def Obligations.PollMovesInTheFixedChain : Prop :=
  ∀ s t : State, s.ovfSet = false → exec .poll s = .next t →
    t.phases ∈ ([[4], [4, 5], [4, 5, 8], [4, 5, 7, 8], [4, 5, 6], [4, 5, 6, 5], [4, 5, 6, 5, 8], [4, 5, 6, 5, 7, 8]] :
      List (List (BitVec 4)))

/-- 45_pipeline.md R106, 60_exceptions.md R110: after a POLL the pulse is 1 exactly with ST_READING, and `status[4]` is 1 only with
ST_READING and ST_ERR_CHECKSUM. -/
def Obligations.ValidPulseMarksReadings : Prop :=
  ∀ s t : State, exec .poll s = .next t →
    (t.validPulse = true ↔ t.status.setWidth 4 = 5#4) ∧
      (t.status.getLsbD 4 = true → t.status.setWidth 4 = 5#4 ∨ t.status.setWidth 4 = 9#4) ∧
      t.status.setWidth 4 ≤ 11#4

/-- 45_pipeline.md R103, 70_reset_and_hazards.md R146: SUPPRESS decides only whether an Invalid record is delivered: status, pulse
and SB are the same under both values, a Reading is delivered under both, and under 1 no other record is. -/
def Obligations.SuppressHidesOnlyInvalidRecords : Prop :=
  ∀ s s1 s0 : State, exec .poll { s with port := cmdPoll true } = .next s1 →
    exec .poll { s with port := cmdPoll false } = .next s0 →
    s1.status = s0.status ∧ s1.validPulse = s0.validPulse ∧ s1.sb = s0.sb ∧ s1.ovf = s0.ovf ∧
      (s0.validPulse = true → s1.out = s0.out) ∧ (s0.validPulse = false → s1.out = none)

/-- 10_state.md R10: what a POLL leaves in SB is what was there from some index on: bytes are consumed from the front only, never
reordered or changed, a requeue included. -/
def Obligations.PollConsumesFromTheFrontOnly : Prop :=
  ∀ s t : State, exec .poll s = .next t → ∃ d, t.sb = s.sb.drop d

/-- 42_synchronizer.md R73: with OVF not set, a POLL that ends in ST_NO_START or ST_NO_END leaves SB unchanged and repeating it
changes nothing; every other POLL shortens SB by at least two bytes. -/
def Obligations.PollMakesProgress : Prop :=
  ∀ s t : State, s.ovfSet = false → exec .poll s = .next t →
    (t.drained = true → t.sb = s.sb ∧ exec .poll t = .next t) ∧
      (t.drained = false → t.sb.length + 2 ≤ s.sb.length)

/-- 45_pipeline.md R107, 42_synchronizer.md R73: PUMP ends for every SB within BUF_CAP, after at most `len(SB) div 2` shortening
POLLs and one final one. -/
def Obligations.PumpTerminates : Prop :=
  ∀ (s : State) (suppress : Bool), s.micro = .idle → s.ovfSet = false → s.fits s.sb = true →
    ∃ rs t, pump suppress (s.sb.length / 2 + 1) s = some (rs, t) ∧ t.drained = true ∧ t.micro = .idle

/-- 43_validator.md R82, 70_reset_and_hazards.md R141: after a POLL that cut an oversized frame of a known kind the `k` surplus
bytes stand before the next delimiter, whose first occurrence is at index `k` exactly. -/
def Obligations.RequeuedBytesStandBeforeTheNextDelimiter : Prop :=
  ∀ (s : State) (garbage body rest : List Byte) (code : Byte) (n : Nat), s.micro = .idle → s.ovfSet = false →
    Clean garbage → Clean body → s.sb = garbage ++ [0xFF, 0xFF] ++ body ++ [0xFF, 0xFF] ++ rest →
    body[1]? = some code → expectedLength (lookup s.params code) = some n → n < body.length → s.fits s.sb = true →
    ∃ t, exec .poll s = .next t ∧ t.sb = body.drop n ++ [0xFF, 0xFF] ++ rest ∧ findDelim t.sb 0 = some (body.length - n) ∧
      t.status.getLsbD 4 = true

/-! ## The machine as a whole -/

/-- 45_pipeline.md R99, 30_encoding.md R38: with no command in progress a step performs the command whose code the host's next
transaction carries, on the state with that transaction on the pins; a host that presents nothing leaves the block as it is; and a
command in progress goes on with the instruction it stands at, the one POLL itself runs there. The list of transactions is the
model's own (log entry 4). -/
def Obligations.StepRunsTheDecodedInstruction : Prop :=
  (∀ (s : State) (p : Pins) (rest : List Pins) (b : Byte) (i : Instr), s.micro = .idle → s.pending = p :: rest →
    p.rst = false → b.setWidth 4 = p.op → decode s.params .command [b] = .ok (i, []) →
    step s = exec i { s with port := p, pending := rest }) ∧
  (∀ s : State, s.micro = .idle → s.pending = [] → step s = .next s) ∧
  (∀ (s : State) (i : Instr), s.current = some i → step s = exec i s ∧ microStep s = exec i s)

/-- 70_reset_and_hazards.md R136, R137, 93_implementation_defined.md U15 (log entry 8): where an instruction has no meaning it stops
by name: a host command while another is in progress, and a search or a decode routine outside a POLL. -/
def Obligations.InstructionsOutOfPlaceAreRefused : Prop :=
  (∀ (s : State) (i : Instr), s.micro ≠ .idle → i ∈ ([.nop, .append, .poll, .reset] : List Instr) →
    exec i s = .refused .overlappingCommand) ∧
  (∀ (s : State) (i : Instr), s.micro = .idle →
    (i ∈ ([.delim, .decRain, .decThermo, .decBaro, .decUv, .decAnemo, .decClock] : List Instr) ∨
      ∃ code, i = .decUnknown code) → exec i s = .refused .notDispatched)

/-- 20_memory.md R30, 45_pipeline.md R99: commands are atomic: a step that starts between commands ends between commands. -/
def Obligations.CommandsAreAtomic : Prop :=
  ∀ s t : State, s.micro = .idle → step s = .next t → t.micro = .idle

/-- 10_state.md R15, R19: no instruction writes a parameter, a pin or the host's coming transactions. -/
def Obligations.InstructionsKeepTheInputs : Prop :=
  ∀ (i : Instr) (s t : State), exec i s = .next t → KeepsInputs s t

/-- 10_state.md R10: SB is written by append at the tail, by drain of a front part, by prepend, or emptied, each by the
instructions the rule names, and by no other instruction. -/
def Obligations.BufferIsWrittenInThreeWaysOnly : Prop :=
  ∀ (i : Instr) (s t : State), exec i s = .next t →
    (writesSB i = false → t.sb = s.sb) ∧
    (i = .append → ∃ p, t.sb = s.sb ++ p) ∧
    ((i = .extract ∨ i = .delim) → ∃ f, t.sb = s.sb.drop f) ∧
    ((i = .requeue ∨ i = .validate) → ∃ e, t.sb = e ++ s.sb) ∧
    (i = .reset → t.sb = [])

/-- The reset state meets the block's invariant (10_state.md R20); it holds for the parameters log entries 1 and 2 name. -/
def Obligations.ResetMeetsTheInvariant : Prop := Inv State.reset

/-- 10_state.md R11, R12, 45_pipeline.md R104 to R106, 60_exceptions.md R110: every step keeps the invariant, from every state
that meets it, a state in the middle of a POLL included. -/
def Obligations.StepKeepsTheInvariant : Prop :=
  ∀ s t : State, Inv s → step s = .next t → Inv t

/-- 60_exceptions.md R119, R124, 20_memory.md R28: from a state that meets the invariant a step always gives a next state: no
OutOfRange, no undefined accessor call and no refusal is ever reached. -/
def Obligations.NoStepStops : Prop :=
  ∀ s : State, Inv s → ∃ t, step s = .next t

/-! ## Encodings -/

/-- 30_encoding.md R38, R40, R42: every well-formed instruction decodes from its own words, whatever follows them, for all
parameters with distinct device codes. -/
def Obligations.DecodeOfEncodeIsTheInstruction : Prop :=
  ∀ (p : Params) (i : Instr) (rest : List Byte), ParamsOk p → i.wellFormed p = true →
    decode p (encode p i).1 ((encode p i).2 ++ rest) = .ok (i, rest)

/-- 30_encoding.md R38, R42: whatever decodes is a well-formed instruction, and the bytes taken are that instruction's own
words: no two words of a space stand for one instruction, and no word for two. -/
def Obligations.EncodeOfDecodeIsTheWord : Prop :=
  ∀ (p : Params) (sp : Space) (bytes rest : List Byte) (i : Instr), decode p sp bytes = .ok (i, rest) →
    i.wellFormed p = true ∧ (encode p i).1 = sp ∧ bytes = (encode p i).2 ++ rest

/-- 30_encoding.md R38, R40, R42: words written out from the tables; which space a word belongs to is the model's choice (log entry 6). -/
def Obligations.WordsOfTheTablesDecode : Prop :=
  decodeTableWord 8 0b0010 = some .poll ∧ decodeTableWord 8 0b0101 = some .validate ∧
    decodeTableWord 8 0b1111 = some .reservedF ∧ decodeTableWord 16 0b1111111111111111 = some .delim ∧
    decodeTableWord 16 0b1111111100000000 = none ∧ decodeTableWord 8 0b01000111 = some .decUv ∧
    decodeTableWord 8 0b01100000 = some .decClock ∧ decodeTableWord 8 0b01100001 = some (.decUnknown 0x61)
end

