-- ==== Sys2Proof/Laws/Operands.lean ====
section
/-! SUPPORT. What the accessors answer inside a sequence (40_bitbuffer.md R57 to R61), said once each. -/

namespace Sys2Proof.Machine

variable {q : List Byte}

theorem byteAt_ok {pos : Nat} {b : Byte} (h : q[pos]? = some b) : byteAt q pos = .ok b.toNat := by simp [byteAt, h]

theorem byteAt_past {pos : Nat} (h : q.length ≤ pos) : byteAt q pos = .error (.outOfRange pos q.length) := by
  simp [byteAt, List.getElem?_eq_none h]

theorem bitsAt_ok {pos o n : Nat} {b : Byte} (h : q[pos]? = some b) (hd : 1 ≤ n ∧ o + n ≤ 8) :
    bitsAt q pos o n = .ok (b.toNat / 2 ^ o % 2 ^ n) := by simp [bitsAt, hd, byteAt_ok h, bind, Except.bind]

theorem nibbleAt_low {pos : Nat} {b : Byte} (h : q[pos]? = some b) : nibbleAt q pos 0 = .ok (b.toNat % 16) := by
  simp [nibbleAt, byteAt_ok h, bind, Except.bind]

theorem nibbleAt_high {pos : Nat} {b : Byte} (h : q[pos]? = some b) : nibbleAt q pos 1 = .ok (b.toNat / 16) := by
  simp [nibbleAt, byteAt_ok h, bind, Except.bind]

theorem wordAt_ok {pos : Nat} {b c : Byte} (hb : q[pos]? = some b) (hc : q[pos + 1]? = some c) :
    wordAt q pos = .ok (b.toNat + 256 * c.toNat) := by simp [wordAt, byteAt_ok hb, byteAt_ok hc, bind, Except.bind]

/-- Three nibbles from a low nibble (30_encoding.md R49). -/
theorem nibbleRun_low3 {pos : Nat} {b c : Byte} (hb : q[pos]? = some b) (hc : q[pos + 1]? = some c) :
    nibbleRun q pos 0 3 = .ok (b.toNat + 256 * (c.toNat % 16)) := by
  simp only [nibbleRun, nibbleSum, Nat.zero_le, if_true, Nat.zero_add, Nat.add_zero,
    nibbleAt_low hb, nibbleAt_high hb, nibbleAt_low hc, bind, Except.bind, show 1 / 2 = 0 by rfl, show 1 % 2 = 1 by rfl,
    show 2 / 2 = 1 by rfl, show 2 % 2 = 0 by rfl]
  congr 1
  omega

theorem byte_lt (b : Byte) : b.toNat < 256 := b.isLt

/-- One bit of a byte, LSB-first (40_bitbuffer.md R58). -/
theorem bitsAt_bit {pos i : Nat} {b : Byte} (h : q[pos]? = some b) (hi : i < 8) :
    bitsAt q pos i 1 = .ok (b.getLsbD i).toNat := by
  rw [bitsAt_ok h (by omega), BitVec.getLsbD, Nat.toNat_testBit]; rfl

/-- Inside the sequence every accessor has a value within its width. -/
theorem byteAt_inside {pos : Nat} (h : pos < q.length) : ∃ v, byteAt q pos = .ok v ∧ v < 256 :=
  ⟨_, byteAt_ok (b := q[pos]) (by simp), byte_lt _⟩

theorem bitsAt_inside {pos o n : Nat} (h : pos < q.length) (hd : 1 ≤ n ∧ o + n ≤ 8) :
    ∃ v, bitsAt q pos o n = .ok v ∧ v < 2 ^ n :=
  ⟨_, bitsAt_ok (b := q[pos]) (by simp) hd, Nat.mod_lt _ (by positivity)⟩

theorem nibbleAt_inside {pos o : Nat} (h : pos < q.length) (ho : o ≤ 1) : ∃ v, nibbleAt q pos o = .ok v ∧ v < 16 := by
  have hb : q[pos]? = some q[pos] := by simp
  have := byte_lt q[pos]
  rcases (show o = 0 ∨ o = 1 by omega) with rfl | rfl
  · exact ⟨_, nibbleAt_low hb, by omega⟩
  · exact ⟨_, nibbleAt_high hb, by omega⟩

theorem wordAt_inside {pos : Nat} (h : pos + 1 < q.length) : ∃ v, wordAt q pos = .ok v ∧ v < 65536 := by
  have hb : q[pos]? = some q[pos] := by simp
  have hc : q[pos + 1]? = some q[pos + 1] := by simp
  have := byte_lt q[pos]
  have := byte_lt q[pos + 1]
  exact ⟨_, wordAt_ok hb hc, by omega⟩

/-- A byte of a slice (00_scope.md R6). -/
theorem slice_getElem? (q : List Byte) (a b i : Nat) : (slice q a b)[i]? = if a + i < b then q[a + i]? else none := by
  simp [slice, List.getElem?_drop, List.getElem?_take]

end Sys2Proof.Machine
end

