-- ==== Sys2Proof/Laws/Search.lean ====
section
/-! SUPPORT. What the delimiter search answers (42_synchronizer.md R67), said once. -/

namespace Sys2Proof.Machine

/-- A delimiter occurrence at index `i` (30_encoding.md R40). -/
abbrev OccursAt (q : List Byte) (i : Nat) : Prop := q[i]? = some (0xFF : Byte) ∧ q[i + 1]? = some (0xFF : Byte)

@[simp] theorem isDelim_iff (x y : Byte) : isDelim x y = true ↔ x = 0xFF ∧ y = 0xFF := by simp [isDelim]

/-- An answer of the search is the first occurrence, counted from the index of the sequence's first element. -/
theorem scanFrom_eq_some {q : List Byte} {k i : Nat} (h : scanFrom q k = some i) :
    k ≤ i ∧ OccursAt q (i - k) ∧ ∀ j, j < i - k → ¬ OccursAt q j := by
  fun_induction scanFrom q k with
  | case1 x y rest k hd =>
    cases h
    obtain ⟨rfl, rfl⟩ := (isDelim_iff x y).1 hd
    exact ⟨le_refl _, by simp [OccursAt], by intro j hj; omega⟩
  | case2 x y rest k hd ih =>
    obtain ⟨h1, h2, h3⟩ := ih h
    have e : i - k = (i - (k + 1)) + 1 := by omega
    refine ⟨by omega, ?_, ?_⟩
    · rw [e]; exact ⟨by simpa using h2.1, by simpa using h2.2⟩
    · intro j hj
      cases j with
      | zero => intro hc; apply hd; rw [isDelim_iff]; simpa [OccursAt] using hc
      | succ j => intro hc; exact h3 j (by omega) ⟨by simpa using hc.1, by simpa using hc.2⟩
  | case3 => cases h

/-- Without an answer there is no occurrence. -/
theorem scanFrom_eq_none {q : List Byte} {k : Nat} (h : scanFrom q k = none) : ∀ j, ¬ OccursAt q j := by
  fun_induction scanFrom q k with
  | case1 => cases h
  | case2 x y rest k hd ih =>
    intro j hc
    cases j with
    | zero => apply hd; rw [isDelim_iff]; simpa [OccursAt] using hc
    | succ j => exact ih h j ⟨by simpa using hc.1, by simpa using hc.2⟩
  | case3 q k hq =>
    intro j hc
    match q, hq with
    | [], _ => simp [OccursAt] at hc
    | [x], _ => cases j <;> simp [OccursAt] at hc
    | x :: y :: r, hq => exact (hq x y r rfl).elim

/-- An occurrence lies inside the sequence. -/
theorem OccursAt.lt {q : List Byte} {i : Nat} (h : OccursAt q i) : i + 1 < q.length := by
  have := h.2
  exact (List.getElem?_eq_some_iff.1 this).1

theorem occursAt_drop (q : List Byte) (a i : Nat) : OccursAt (q.drop a) i ↔ OccursAt q (a + i) := by
  simp [OccursAt, List.getElem?_drop, Nat.add_assoc]

/-- `findDelim` answers the least occurrence at or after `a`. -/
theorem findDelim_eq_some {q : List Byte} {a i : Nat} (h : findDelim q a = some i) :
    a ≤ i ∧ OccursAt q i ∧ ∀ j, a ≤ j → j < i → ¬ OccursAt q j := by
  obtain ⟨h1, h2, h3⟩ := scanFrom_eq_some h
  refine ⟨h1, ?_, ?_⟩
  · have := (occursAt_drop q a (i - a)).1 h2
    rwa [Nat.add_sub_cancel' h1] at this
  · intro j hj hji hc
    refine h3 (j - a) (by omega) ((occursAt_drop q a (j - a)).2 ?_)
    rwa [Nat.add_sub_cancel' hj]

/-- `findDelim` without an answer: there is no occurrence at or after `a`. -/
theorem findDelim_eq_none {q : List Byte} {a : Nat} (h : findDelim q a = none) : ∀ j, a ≤ j → ¬ OccursAt q j := by
  intro j hj hc
  refine scanFrom_eq_none h (j - a) ((occursAt_drop q a (j - a)).2 ?_)
  rwa [Nat.add_sub_cancel' hj]

/-- The least occurrence is what `findDelim` answers. -/
theorem findDelim_of_least {q : List Byte} {a i : Nat} (h1 : a ≤ i) (h2 : OccursAt q i)
    (h3 : ∀ j, a ≤ j → j < i → ¬ OccursAt q j) : findDelim q a = some i := by
  match h : findDelim q a with
  | none => exact (findDelim_eq_none h i h1 h2).elim
  | some k =>
    obtain ⟨k1, k2, k3⟩ := findDelim_eq_some h
    rcases Nat.lt_trichotomy k i with hlt | rfl | hgt
    · exact (h3 k k1 hlt k2).elim
    · rfl
    · exact (k3 i h1 hgt h2).elim

/-- Bytes put before a sequence shift the answer of the search. -/
theorem findDelim_append {pre q : List Byte} {i : Nat} (h : findDelim q 0 = some i) :
    findDelim (pre ++ q) pre.length = some (pre.length + i) := by
  obtain ⟨h1, h2, h3⟩ := findDelim_eq_some h
  have e : ∀ j, (pre ++ q)[pre.length + j]? = q[j]? := by
    intro j; rw [List.getElem?_append_right (by omega)]; simp
  apply findDelim_of_least (by omega)
  · exact ⟨by rw [e]; exact h2.1, by rw [Nat.add_assoc, e]; exact h2.2⟩
  · intro j hj hji hc
    obtain ⟨k, rfl⟩ := Nat.exists_eq_add_of_le hj
    refine h3 k (by omega) (by omega) ⟨?_, ?_⟩
    · have := hc.1; rwa [e] at this
    · have := hc.2; rwa [Nat.add_assoc, e] at this

/-- A clean sequence before a delimiter: the search from its start passes over it. -/
theorem findDelim_of_clean {g r : List Byte} (hg : Clean g) : findDelim (g ++ [0xFF, 0xFF] ++ r) 0 = some g.length := by
  apply findDelim_of_least (by omega)
  · constructor <;> simp
  · intro j _ hj hc
    by_cases h : j + 1 < g.length
    · apply hg.1 j
      simpa [OccursAt, List.getElem?_append, h, hj, show j < g.length + (1 + 1) by omega,
        show j + 1 < g.length + (1 + 1) by omega] using hc
    · apply hg.2
      rw [List.getLast?_eq_getElem?, show g.length - 1 = j by omega]
      have := hc.1
      simpa [List.getElem?_append, hj] using this

end Sys2Proof.Machine
end

