-- ==== Sys2Proof/Laws/State.lean ====
section
/-! SUPPORT. One lemma per field of State per named update: what the update leaves in that field. -/

namespace Sys2Proof.Machine

variable (s : State)

@[simp] theorem State.respond_params (code : StatusCode) : (s.respond code).params = s.params := rfl
@[simp] theorem State.respond_port (code : StatusCode) : (s.respond code).port = s.port := rfl
@[simp] theorem State.respond_pending (code : StatusCode) : (s.respond code).pending = s.pending := rfl
@[simp] theorem State.respond_sb (code : StatusCode) : (s.respond code).sb = s.sb := rfl
@[simp] theorem State.respond_ovf (code : StatusCode) : (s.respond code).ovf = s.ovf := rfl
@[simp] theorem State.respond_status (code : StatusCode) : (s.respond code).status = statusWord code false := rfl
@[simp] theorem State.respond_out (code : StatusCode) : (s.respond code).out = none := rfl
@[simp] theorem State.respond_validPulse (code : StatusCode) : (s.respond code).validPulse = false := rfl
@[simp] theorem State.respond_micro (code : StatusCode) : (s.respond code).micro = s.micro := rfl
@[simp] theorem State.respond_phases (code : StatusCode) : (s.respond code).phases = [] := rfl

@[simp] theorem State.clear_params : (s.clear).params = s.params := rfl
@[simp] theorem State.clear_port : (s.clear).port = s.port := rfl
@[simp] theorem State.clear_pending : (s.clear).pending = s.pending := rfl
@[simp] theorem State.clear_sb : (s.clear).sb = [] := rfl
@[simp] theorem State.clear_ovf : (s.clear).ovf = false := rfl
@[simp] theorem State.clear_status : (s.clear).status = statusWord .ok false := rfl
@[simp] theorem State.clear_out : (s.clear).out = none := rfl
@[simp] theorem State.clear_validPulse : (s.clear).validPulse = false := rfl
@[simp] theorem State.clear_micro : (s.clear).micro = .idle := rfl
@[simp] theorem State.clear_phases : (s.clear).phases = [] := rfl

@[simp] theorem State.setOvf_params : (s.setOvf).params = s.params := rfl
@[simp] theorem State.setOvf_port : (s.setOvf).port = s.port := rfl
@[simp] theorem State.setOvf_pending : (s.setOvf).pending = s.pending := rfl
@[simp] theorem State.setOvf_sb : (s.setOvf).sb = s.sb := rfl
@[simp] theorem State.setOvf_ovf : (s.setOvf).ovf = true := rfl
@[simp] theorem State.setOvf_status : (s.setOvf).status = s.status := rfl
@[simp] theorem State.setOvf_out : (s.setOvf).out = s.out := rfl
@[simp] theorem State.setOvf_validPulse : (s.setOvf).validPulse = s.validPulse := rfl
@[simp] theorem State.setOvf_micro : (s.setOvf).micro = s.micro := rfl
@[simp] theorem State.setOvf_phases : (s.setOvf).phases = s.phases := rfl

@[simp] theorem State.drain_params (f : Nat) : (s.drain f).params = s.params := rfl
@[simp] theorem State.drain_port (f : Nat) : (s.drain f).port = s.port := rfl
@[simp] theorem State.drain_pending (f : Nat) : (s.drain f).pending = s.pending := rfl
@[simp] theorem State.drain_sb (f : Nat) : (s.drain f).sb = s.sb.drop f := rfl
@[simp] theorem State.drain_ovf (f : Nat) : (s.drain f).ovf = s.ovf := rfl
@[simp] theorem State.drain_status (f : Nat) : (s.drain f).status = s.status := rfl
@[simp] theorem State.drain_out (f : Nat) : (s.drain f).out = s.out := rfl
@[simp] theorem State.drain_validPulse (f : Nat) : (s.drain f).validPulse = s.validPulse := rfl
@[simp] theorem State.drain_micro (f : Nat) : (s.drain f).micro = s.micro := rfl
@[simp] theorem State.drain_phases (f : Nat) : (s.drain f).phases = s.phases := rfl

@[simp] theorem State.goto_params (m : Micro) : (s.goto m).params = s.params := rfl
@[simp] theorem State.goto_port (m : Micro) : (s.goto m).port = s.port := rfl
@[simp] theorem State.goto_pending (m : Micro) : (s.goto m).pending = s.pending := rfl
@[simp] theorem State.goto_sb (m : Micro) : (s.goto m).sb = s.sb := rfl
@[simp] theorem State.goto_ovf (m : Micro) : (s.goto m).ovf = s.ovf := rfl
@[simp] theorem State.goto_status (m : Micro) : (s.goto m).status = s.status := rfl
@[simp] theorem State.goto_out (m : Micro) : (s.goto m).out = s.out := rfl
@[simp] theorem State.goto_validPulse (m : Micro) : (s.goto m).validPulse = s.validPulse := rfl
@[simp] theorem State.goto_micro (m : Micro) : (s.goto m).micro = m := rfl

@[simp] theorem State.startPoll_params : (s.startPoll).params = s.params := rfl
@[simp] theorem State.startPoll_port : (s.startPoll).port = s.port := rfl
@[simp] theorem State.startPoll_pending : (s.startPoll).pending = s.pending := rfl
@[simp] theorem State.startPoll_sb : (s.startPoll).sb = s.sb := rfl
@[simp] theorem State.startPoll_ovf : (s.startPoll).ovf = s.ovf := rfl
@[simp] theorem State.startPoll_status : (s.startPoll).status = s.status := rfl
@[simp] theorem State.startPoll_out : (s.startPoll).out = none := rfl
@[simp] theorem State.startPoll_validPulse : (s.startPoll).validPulse = false := rfl
@[simp] theorem State.startPoll_micro : (s.startPoll).micro = .extract s.port.suppress := rfl
@[simp] theorem State.startPoll_phases : (s.startPoll).phases = [4] := rfl

@[simp] theorem State.finish_params (code : StatusCode) (t : Bool) : (s.finish code t).params = s.params := rfl
@[simp] theorem State.finish_port (code : StatusCode) (t : Bool) : (s.finish code t).port = s.port := rfl
@[simp] theorem State.finish_pending (code : StatusCode) (t : Bool) : (s.finish code t).pending = s.pending := rfl
@[simp] theorem State.finish_sb (code : StatusCode) (t : Bool) : (s.finish code t).sb = s.sb := rfl
@[simp] theorem State.finish_ovf (code : StatusCode) (t : Bool) : (s.finish code t).ovf = s.ovf := rfl
@[simp] theorem State.finish_status (code : StatusCode) (t : Bool) : (s.finish code t).status = statusWord code t := rfl
@[simp] theorem State.finish_out (code : StatusCode) (t : Bool) : (s.finish code t).out = s.out := rfl
@[simp] theorem State.finish_validPulse (code : StatusCode) (t : Bool) : (s.finish code t).validPulse = s.validPulse := rfl
@[simp] theorem State.finish_micro (code : StatusCode) (t : Bool) : (s.finish code t).micro = .idle := rfl
@[simp] theorem State.finish_phases (code : StatusCode) (t : Bool) : (s.finish code t).phases = s.phases := rfl

@[simp] theorem State.present_params (p : Pins) (rest : List Pins) : (s.present p rest).params = s.params := rfl
@[simp] theorem State.present_port (p : Pins) (rest : List Pins) : (s.present p rest).port = p := rfl
@[simp] theorem State.present_pending (p : Pins) (rest : List Pins) : (s.present p rest).pending = rest := rfl
@[simp] theorem State.present_sb (p : Pins) (rest : List Pins) : (s.present p rest).sb = s.sb := rfl
@[simp] theorem State.present_ovf (p : Pins) (rest : List Pins) : (s.present p rest).ovf = s.ovf := rfl
@[simp] theorem State.present_status (p : Pins) (rest : List Pins) : (s.present p rest).status = s.status := rfl
@[simp] theorem State.present_out (p : Pins) (rest : List Pins) : (s.present p rest).out = s.out := rfl
@[simp] theorem State.present_validPulse (p : Pins) (rest : List Pins) : (s.present p rest).validPulse = s.validPulse := rfl
@[simp] theorem State.present_micro (p : Pins) (rest : List Pins) : (s.present p rest).micro = s.micro := rfl
@[simp] theorem State.present_phases (p : Pins) (rest : List Pins) : (s.present p rest).phases = s.phases := rfl

/-- Going to a point of the same micro-operation records nothing in `phases`. -/
theorem State.goto_phases_same (m : Micro) (h : s.micro.phase = m.phase) : (s.goto m).phases = s.phases := by
  simp [State.goto, h]

/-- Going to a point of another micro-operation records its op code. -/
theorem State.goto_phases_new (m : Micro) (h : s.micro.phase ≠ m.phase) : (s.goto m).phases = s.phases ++ [m.phase] := by
  simp [State.goto, h]

/-- A write that fits leaves exactly the content written. -/
theorem State.writeSB_fits (q : List Byte) (h : s.fits q = true) : s.writeSB q = some { s with sb := q } := by
  simp [State.writeSB, h]

/-- A write that does not fit writes nothing. -/
theorem State.writeSB_full (q : List Byte) (h : s.fits q = false) : s.writeSB q = none := by
  simp [State.writeSB, h]

/-- What a write can do: the content is there and fits, and every other field is as it was. -/
theorem State.writeSB_eq_some {q : List Byte} {t : State} (h : s.writeSB q = some t) :
    s.fits q = true ∧ t = { s with sb := q } := by
  unfold State.writeSB at h
  split at h
  · exact ⟨‹_›, (Option.some.inj h).symm⟩
  · cases h

/-- Reporting with SUPPRESS 1 ends the command. -/
theorem State.report_suppressed (fr : List Byte) (t : Bool) (e : ValidationError) :
    s.report true fr t e = s.finish e.code t := rfl

/-- Reporting with SUPPRESS 0 hands the Invalid record to EMIT. -/
theorem State.report_surfaced (fr : List Byte) (t : Bool) (e : ValidationError) :
    s.report false fr t e = s.goto (.emit (e.record t fr)) := rfl

@[simp] theorem State.report_params (sup : Bool) (fr : List Byte) (t : Bool) (e : ValidationError) :
    (s.report sup fr t e).params = s.params := by
  cases sup <;> rfl

@[simp] theorem State.report_port (sup : Bool) (fr : List Byte) (t : Bool) (e : ValidationError) :
    (s.report sup fr t e).port = s.port := by
  cases sup <;> rfl

@[simp] theorem State.report_pending (sup : Bool) (fr : List Byte) (t : Bool) (e : ValidationError) :
    (s.report sup fr t e).pending = s.pending := by
  cases sup <;> rfl

@[simp] theorem State.report_sb (sup : Bool) (fr : List Byte) (t : Bool) (e : ValidationError) :
    (s.report sup fr t e).sb = s.sb := by
  cases sup <;> rfl

@[simp] theorem State.report_ovf (sup : Bool) (fr : List Byte) (t : Bool) (e : ValidationError) :
    (s.report sup fr t e).ovf = s.ovf := by
  cases sup <;> rfl

@[simp] theorem State.report_out (sup : Bool) (fr : List Byte) (t : Bool) (e : ValidationError) :
    (s.report sup fr t e).out = s.out := by
  cases sup <;> rfl

@[simp] theorem State.report_validPulse (sup : Bool) (fr : List Byte) (t : Bool) (e : ValidationError) :
    (s.report sup fr t e).validPulse = s.validPulse := by
  cases sup <;> rfl

@[simp] theorem andThen_next (k : State → Result) : andThen (.next s) k = k s := rfl

@[simp] theorem ofRead_ok {α : Type} (a : α) (k : α → Result) : ofRead (.ok a) k = k a := rfl

/-- A sequence that answers a next state ran its first part to a next state. -/
theorem andThen_eq_next {r : Result} {k : State → Result} {t : State} (h : andThen r k = .next t) :
    ∃ s1, r = .next s1 ∧ k s1 = .next t := by
  cases r with
  | next s1 => exact ⟨s1, rfl, h⟩
  | fault f => cases h
  | refused x => cases h

/-- An operand form that answers a next state had a value. -/
theorem ofRead_eq_next {α : Type} {r : Except ReadError α} {k : α → Result} {t : State} (h : ofRead r k = .next t) :
    ∃ a, r = .ok a ∧ k a = .next t := by
  cases r with
  | ok a => exact ⟨a, rfl, h⟩
  | error e => cases e <;> cases h

/-- A command that answers a next state was presented between commands. -/
theorem atPort_eq_next {r : Result} {t : State} (h : atPort s r = .next t) : s.micro = .idle ∧ r = .next t := by
  unfold atPort at h
  split at h
  · exact ⟨‹_›, h⟩
  · cases h

/-- Between commands a command is performed. -/
theorem atPort_idle (r : Result) (h : s.micro = .idle) : atPort s r = r := by simp [atPort, h]

/-- A refused op code that answers a next state was presented between commands and wrote the outputs only. -/
theorem illegal_eq_next {t : State} (h : illegal s = .next t) : s.micro = .idle ∧ t = s.respond .illegalCmd := by
  obtain ⟨hm, h⟩ := atPort_eq_next s h
  exact ⟨hm, by cases h; rfl⟩

end Sys2Proof.Machine
end

