-- ==== Sys2Proof/Laws/Exec.lean ====
section
/-! SUPPORT. One lemma per meaning: everything a next state of it can be. Claims cite these instead of unfolding a meaning. -/

namespace Sys2Proof.Machine

variable {s t : State}

theorem nop_inv (h : exec .nop s = .next t) : s.micro = .idle ∧ t = s.respond .ok := by
  obtain ⟨hm, h⟩ := atPort_eq_next _ (show execNop s = _ from h)
  exact ⟨hm, by cases h; rfl⟩

theorem reset_inv (h : exec .reset s = .next t) : s.micro = .idle ∧ t = s.clear := by
  obtain ⟨hm, h⟩ := atPort_eq_next _ (show execReset s = _ from h)
  exact ⟨hm, by cases h; rfl⟩

/-- APPEND answers with a status alone, sets OVF, or appends bytes that fit (42_synchronizer.md R68, 10_state.md R11). -/
theorem append_inv (h : exec .append s = .next t) :
    s.micro = .idle ∧
      ((∃ c, (c = .faultOverflow ∨ c = .badChunk) ∧ t = s.respond c) ∨
        t = s.setOvf.respond .faultOverflow ∧ s.params.bufCap ≠ none ∨
        ∃ p, s.fits (s.sb ++ p) = true ∧ t = ({ s with sb := s.sb ++ p } : State).respond .ok) := by
  obtain ⟨hm, h⟩ := atPort_eq_next _ (show execAppend s = _ from h)
  refine ⟨hm, ?_⟩
  split at h
  · cases h; exact .inl ⟨_, .inl rfl, rfl⟩
  split at h
  · cases h; exact .inl ⟨_, .inr rfl, rfl⟩
  obtain ⟨n, _, h⟩ := ofRead_eq_next h
  split at h
  · cases h; exact .inl ⟨_, .inr rfl, rfl⟩
  split at h
  · rename_i s' hs
    obtain ⟨hf, rfl⟩ := State.writeSB_eq_some _ hs
    cases h; exact .inr (.inr ⟨_, hf, rfl⟩)
  · rename_i hs
    cases h
    refine .inr (.inl ⟨rfl, fun hc => ?_⟩)
    simp [State.writeSB, State.fits, hc] at hs

/-- DELIM ends the command, or passes the start marker, or hands the body over (42_synchronizer.md R69). -/
theorem delim_inv (h : exec .delim s = .next t) :
    (∃ sup, s.micro = .seekStart sup ∧
      (findDelim s.sb 0 = none ∧ t = s.finish .noStart false ∨
        ∃ i, findDelim s.sb 0 = some i ∧ t = s.goto (.seekEnd sup (i + 2)))) ∨
    (∃ sup bodyStart, s.micro = .seekEnd sup bodyStart ∧
      (findDelim s.sb bodyStart = none ∧ t = s.finish .noEnd false ∨
        ∃ f, findDelim s.sb bodyStart = some f ∧
          (f = bodyStart ∧ t = (s.drain f).finish .emptyFrame false ∨
            f ≠ bodyStart ∧ t = (s.drain f).goto (.validate sup (slice s.sb bodyStart f))))) := by
  simp only [exec, execDelim] at h
  split at h
  · rename_i sup hm
    refine .inl ⟨sup, hm, ?_⟩
    split at h
    · cases h; exact .inl ⟨‹_›, rfl⟩
    · cases h; exact .inr ⟨_, ‹_›, rfl⟩
  · rename_i sup b hm
    refine .inr ⟨sup, b, hm, ?_⟩
    split at h
    · cases h; exact .inl ⟨‹_›, rfl⟩
    · rename_i f hf
      cases h
      refine .inr ⟨f, hf, ?_⟩
      by_cases hb : f = b
      · exact .inl ⟨hb, by simp [State.endBody, hb]⟩
      · exact .inr ⟨hb, by simp [State.endBody, hb]⟩
  · cases h

/-- EXTRACT is its two searches (42_synchronizer.md R69). -/
theorem extract_inv (h : exec .extract s = .next t) :
    (∃ sup s1, s.micro = .extract sup ∧ exec .delim (s.goto (.seekStart sup)) = .next s1 ∧
      (s1.micro = .idle ∧ t = s1 ∨ (∃ b, s1.micro = .seekEnd sup b) ∧ exec .delim s1 = .next t)) ∨
    s.micro = .idle ∧ t = s.respond .illegalCmd := by
  simp only [exec, execExtract] at h
  split at h
  · rename_i sup hm
    obtain ⟨s1, h1, h⟩ := andThen_eq_next h
    replace h1 : exec .delim (s.goto (.seekStart sup)) = .next s1 := h1
    refine .inl ⟨sup, s1, hm, h1, ?_⟩
    rcases delim_inv h1 with ⟨sup', hs, ⟨_, rfl⟩ | ⟨i, _, rfl⟩⟩ | ⟨sup', b, hs, _⟩
    · exact .inl ⟨rfl, by cases h; rfl⟩
    · simp at hs
      subst hs
      exact .inr ⟨⟨_, rfl⟩, h⟩
    · simp at hs
  · exact .inr (illegal_eq_next _ h)

/-- REQUEUE prepends bytes that fit and goes on, or sets OVF and ends the command (42_synchronizer.md R70, 10_state.md R11). -/
theorem requeue_inv (h : exec .requeue s = .next t) :
    (∃ sup kind fr extra, s.micro = .requeue sup kind fr extra ∧
      (s.fits (extra ++ s.sb) = true ∧
          t = ({ s with sb := extra ++ s.sb } : State).goto (.check sup kind fr true) ∨
        s.params.bufCap ≠ none ∧ s.fits (extra ++ s.sb) = false ∧ t = s.setOvf.finish .faultOverflow false)) ∨
    s.micro = .idle ∧ t = s.respond .illegalCmd := by
  simp only [exec, execRequeue] at h
  split at h
  · rename_i sup kind fr extra hm
    refine .inl ⟨sup, kind, fr, extra, hm, ?_⟩
    split at h
    · rename_i s' hs
      obtain ⟨hf, rfl⟩ := State.writeSB_eq_some _ hs
      cases h; exact .inl ⟨hf, rfl⟩
    · rename_i hs
      cases h
      refine .inr ⟨fun hc => ?_, ?_, rfl⟩
      · simp [State.writeSB, State.fits, hc] at hs
      · simpa [State.writeSB] using hs
  · exact .inr (illegal_eq_next _ h)

theorem decUnknown_inv {code : Byte} (h : exec (.decUnknown code) s = .next t) :
    ∃ sup fr, s.micro = .unknown sup fr ∧ fr[1]? = some code ∧
      t = s.report sup fr false (.unknownDevice code.toNat) := by
  simp only [exec, execDecUnknown] at h
  split at h
  · split at h
    · cases h; exact ⟨_, _, ‹_›, ‹_›, rfl⟩
    · cases h
  · cases h

/-- Steps 4 and 5 of VALIDATE report an error or hand the frame to DECODE (43_validator.md R79, R80). -/
theorem validateCheck_inv {sup : Bool} {kind : DeviceKind} {fr : List Byte} {tr : Bool}
    (h : validateCheck sup kind fr tr s = .next t) :
    ∃ n, expectedLength kind = some n ∧
      (fr.length < n ∧ t = s.report sup fr tr (.frameLengthMismatch fr.length n) ∨
        n ≤ fr.length ∧ ∃ want, expectedSum fr = .ok want ∧
          (want ≠ actualSum fr ∧ t = s.report sup fr tr (.checksumMismatch want (actualSum fr)) ∨
            want = actualSum fr ∧ t = s.goto (.decode kind fr tr))) := by
  unfold validateCheck at h
  split at h
  · cases h
  · rename_i n hn
    refine ⟨n, hn, ?_⟩
    split at h
    · cases h; exact .inl ⟨‹_›, rfl⟩
    · obtain ⟨want, hw, h⟩ := ofRead_eq_next h
      refine .inr ⟨by omega, want, hw, ?_⟩
      split at h
      · cases h; exact .inl ⟨‹_›, rfl⟩
      · cases h; exact .inr ⟨by simp_all, rfl⟩

/-- VALIDATE in the rule's order of tests (43_validator.md R75). -/
theorem validate_inv (h : exec .validate s = .next t) :
    (∃ sup fr, s.micro = .validate sup fr ∧
      (fr[1]? = none ∧ t = s.report sup fr false (.runtFrame fr.length) ∨
        ∃ code, fr[1]? = some code ∧
          (expectedLength (lookup s.params code) = none ∧ exec (.decUnknown code) (s.goto (.unknown sup fr)) = .next t ∨
            ∃ n, expectedLength (lookup s.params code) = some n ∧
              (n < fr.length ∧
                  (∃ s1, exec .requeue (s.goto (.requeue sup (lookup s.params code) (fr.take n) (fr.drop n))) = .next s1 ∧
                    (s1.micro = .idle ∧ t = s1 ∨
                      s1.micro = .check sup (lookup s.params code) (fr.take n) true ∧
                        validateCheck sup (lookup s.params code) (fr.take n) true s1 = .next t)) ∨
                fr.length ≤ n ∧ validateCheck sup (lookup s.params code) fr false
                  (s.goto (.check sup (lookup s.params code) fr false)) = .next t)))) ∨
    (∃ sup kind fr tr, s.micro = .check sup kind fr tr ∧ validateCheck sup kind fr tr s = .next t) ∨
    s.micro = .idle ∧ t = s.respond .illegalCmd := by
  simp only [exec, execValidate] at h
  split at h
  · rename_i sup fr hm
    refine .inl ⟨sup, fr, hm, ?_⟩
    split at h
    · cases h; exact .inl ⟨‹_›, rfl⟩
    · rename_i code hc
      refine .inr ⟨code, hc, ?_⟩
      split at h
      · exact .inl ⟨‹_›, h⟩
      · rename_i n hn
        refine .inr ⟨n, hn, ?_⟩
        split at h
        · rename_i hlt
          obtain ⟨s1, h1, h⟩ := andThen_eq_next h
          replace h1 : exec .requeue (s.goto (.requeue sup (lookup s.params code) (fr.take n) (fr.drop n))) = .next s1 := h1
          refine .inl ⟨hlt, s1, h1, ?_⟩
          rcases requeue_inv h1 with ⟨_, _, _, _, he, ⟨_, rfl⟩ | ⟨_, _, rfl⟩⟩ | ⟨hi, _⟩
          · simp at he
            obtain ⟨rfl, rfl, rfl, rfl⟩ := he
            exact .inr ⟨rfl, h⟩
          · cases h; exact .inl ⟨rfl, rfl⟩
          · simp at hi
        · exact .inr ⟨by omega, h⟩
  · exact .inr (.inl ⟨_, _, _, _, ‹_›, h⟩)
  · exact .inr (.inr (illegal_eq_next _ h))

/-- The instructions that are decode routines. -/
def isRoutine (i : Instr) : Prop :=
  i = .decRain ∨ i = .decThermo ∨ i = .decBaro ∨ i = .decUv ∨ i = .decAnemo ∨ i = .decClock

theorem deliver_inv {α : Type} {kind : DeviceKind} {tr : Bool} {tag : α → Reading} {r : Except ReadError α}
    (h : deliver kind tr tag r s = .next t) : ∃ a, r = .ok a ∧ t = s.goto (.emit (.reading kind tr (tag a))) := by
  obtain ⟨a, ha, h⟩ := ofRead_eq_next h
  exact ⟨a, ha, by cases h; rfl⟩

/-- A decode routine hands EMIT the Reading record of the frame (44_decoder.md R84, 45_pipeline.md R102). -/
theorem routine_inv {i : Instr} (hi : isRoutine i) (h : exec i s = .next t) :
    ∃ kind fr tr rd, s.micro = .routine kind fr tr ∧ decodeRef kind fr = .ok (some rd) ∧ rd.kind = kind ∧
      t = s.goto (.emit (.reading kind tr rd)) := by
  rcases hi with rfl | rfl | rfl | rfl | rfl | rfl <;>
  · simp only [exec, execDecRain, execDecThermo, execDecBaro, execDecUv, execDecAnemo, execDecClock] at h
    split at h
    · rename_i hm
      obtain ⟨a, ha, rfl⟩ := deliver_inv h
      refine ⟨_, _, _, _, hm, ?_, ?_, rfl⟩
      · simp [decodeRef, ha, Except.map]
      · rfl
    · cases h

/-- DECODE runs the routine of the kind (44_decoder.md R83). -/
theorem decode_inv (h : exec .decode s = .next t) :
    (∃ kind fr tr rd, s.micro = .decode kind fr tr ∧ decodeRef kind fr = .ok (some rd) ∧ rd.kind = kind ∧
      t = (s.goto (.routine kind fr tr)).goto (.emit (.reading kind tr rd))) ∨
    s.micro = .idle ∧ t = s.respond .illegalCmd := by
  simp only [exec, execDecode] at h
  split at h
  · rename_i kind fr tr hm
    have key : ∃ i, isRoutine i ∧ exec i (s.goto (.routine kind fr tr)) = .next t := by
      cases kind
      · exact ⟨.decRain, by simp [isRoutine], h⟩
      · exact ⟨.decThermo, by simp [isRoutine], h⟩
      · exact ⟨.decBaro, by simp [isRoutine], h⟩
      · exact ⟨.decUv, by simp [isRoutine], h⟩
      · exact ⟨.decAnemo, by simp [isRoutine], h⟩
      · exact ⟨.decClock, by simp [isRoutine], h⟩
      · cases h
    obtain ⟨i, hi, h⟩ := key
    obtain ⟨k, f, r, rd, he, h1, h2, rfl⟩ := routine_inv hi h
    simp at he
    obtain ⟨rfl, rfl, rfl⟩ := he
    exact .inl ⟨_, _, _, rd, hm, h1, h2, rfl⟩
  · exact .inr (illegal_eq_next _ h)

/-- EMIT delivers its record and ends the command (45_pipeline.md R103). -/
theorem emit_inv (h : exec .emit s = .next t) :
    (∃ rec, s.micro = .emit rec ∧
      t = { s with out := some rec, validPulse := rec.pulse, status := rec.status, micro := .idle }) ∨
    s.micro = .idle ∧ t = s.respond .illegalCmd := by
  simp only [exec, execEmit] at h
  split at h
  · cases h; exact .inl ⟨_, ‹_›, rfl⟩
  · exact .inr (illegal_eq_next _ h)

/-- POLL answers the overflow status, or runs its micro-operations (45_pipeline.md R102, 10_state.md R11). -/
theorem poll_inv (h : exec .poll s = .next t) :
    s.micro = .idle ∧
      (s.ovfSet = true ∧ t = s.respond .faultOverflow ∨ s.ovfSet = false ∧ runMicro 4 s.startPoll = .next t) := by
  obtain ⟨hm, h⟩ := atPort_eq_next _ (show execPoll s = _ from h)
  refine ⟨hm, ?_⟩
  split at h
  · cases h; exact .inl ⟨‹_›, rfl⟩
  · exact .inr ⟨by simp_all, h⟩

/-- A run of micro-operations stops where the command has ended. -/
theorem runMicro_idle {n : Nat} (h : s.micro = .idle) : runMicro n s = .next s := by
  cases n <;> simp [runMicro, h]

/-- A run of micro-operations goes on where the first one leaves the block. -/
theorem runMicro_step {n : Nat} (h : s.micro ≠ .idle) (hs : microStep s = .next t) : runMicro (n + 1) s = runMicro n t := by
  simp only [runMicro]; rw [hs, andThen_next]

/-- No instruction is in progress exactly between commands. -/
theorem current_eq_none : s.current = none ↔ s.micro = .idle := by
  simp only [State.current]; split <;> simp_all

/-- What a run of micro-operations keeps, if each one does. -/
theorem runMicro_keeps {P : State → Prop} (hstep : ∀ a b : State, P a → microStep a = .next b → P b) :
    ∀ (n : Nat) {a b : State}, P a → runMicro n a = .next b → P b
  | 0, a, b, ha, h => by cases h; exact ha
  | n + 1, a, b, ha, h => by
    simp only [runMicro] at h
    split at h
    · cases h; exact ha
    · obtain ⟨c, hc, h⟩ := andThen_eq_next h
      exact runMicro_keeps hstep n (hstep a c ha hc) h

/-- The instruction a command stands at is the one the sequencer runs there. -/
theorem microStep_eq {i : Instr} (h : s.current = some i) : microStep s = exec i s := by
  unfold State.current at h
  unfold microStep
  split at h <;> cases h <;> simp_all [exec]
  rename_i kind _ _ _
  cases kind <;> simp_all [runRoutine, routineOf, execDecUnknown]

end Sys2Proof.Machine
end

