-- ==== Sys2Proof/Laws/Frames.lean ====
section
/-! SUPPORT. Lengths, sums and trailers of frames (41_registry.md R65, 43_validator.md R80), and the two checks of VALIDATE. -/

namespace Sys2Proof.Machine

/-- Every registry length is from 6 to 17 bytes. -/
theorem expectedLength_bounds {kind : DeviceKind} {n : Nat} (h : expectedLength kind = some n) : 6 ≤ n ∧ n ≤ 17 := by
  cases kind <;> simp [expectedLength] at h <;> omega

/-- Only Unknown has no expected length. -/
theorem expectedLength_eq_none {kind : DeviceKind} (h : expectedLength kind = none) : kind = .unknown := by
  cases kind <;> simp [expectedLength] at h ⊢

/-- A frame of two bytes or more has a trailer word. -/
theorem expectedSum_inside {fr : List Byte} (h : 2 ≤ fr.length) : ∃ w, expectedSum fr = .ok w ∧ w < 65536 :=
  wordAt_inside (by omega)

theorem byteSum_le (q : List Byte) : byteSum q ≤ 255 * q.length := by
  induction q with
  | nil => simp [byteSum]
  | cons b q ih =>
    have := byte_lt b
    simp only [byteSum, List.map_cons, List.sum_cons, List.length_cons] at *
    omega

theorem byteSum_append (a b : List Byte) : byteSum (a ++ b) = byteSum a + byteSum b := by simp [byteSum]

/-- Replacing one byte moves the sum by the difference. -/
theorem byteSum_set (q : List Byte) (i : Nat) (b c : Byte) (h : q[i]? = some b) :
    byteSum (q.set i c) + b.toNat = byteSum q + c.toNat := by
  induction q generalizing i with
  | nil => simp at h
  | cons x q ih =>
    cases i with
    | zero => simp at h; subst h; simp [byteSum]; omega
    | succ i =>
      have := ih i (by simpa using h)
      simp [byteSum] at *
      omega

/-- The reference's checks are the meaning's checks, on a frame of a known kind. -/
theorem checkRef_eq {kind : DeviceKind} {n : Nat} (fr : List Byte) (t : Bool) (hn : expectedLength kind = some n) :
    checkRef kind n fr t =
      if fr.length < n then .ok (.err (.frameLengthMismatch fr.length n) fr t)
      else (expectedSum fr).bind fun want =>
        .ok (if want ≠ actualSum fr then .err (.checksumMismatch want (actualSum fr)) fr t else .ok kind fr t) := by
  unfold checkRef
  split
  · rfl
  · have : 6 ≤ n := (expectedLength_bounds hn).1
    simp only [expectedSum, wordAt, actualSum, slice, List.drop_zero]
    rw [show fr.length - 2 + 1 = fr.length - 1 by omega]
    cases byteAt fr (fr.length - 2) with
    | error e => rfl
    | ok a => cases byteAt fr (fr.length - 1) <;> rfl

end Sys2Proof.Machine
end

