-- ==== Sys2Proof/Laws/PerInstr.lean ====
section
/-! SUPPORT. A statement about every instruction as syntax: its words have the shape of its encoding space. -/

namespace Sys2Proof.Laws.EncodedInItsSpace

/-- How many bytes hold one word of a space (30_encoding.md R37, R40, R42). -/
def wordBytes : Space → Nat
  | .command => 1
  | .stream => 2
  | .frame => 1

/-- The instruction's encoding is one word of its space; a command word uses op[3:0] only (30_encoding.md R37). -/
def Statement (i : Instr) : Prop :=
  ∀ p : Params, (encode p i).2.length = wordBytes (encode p i).1 ∧
    ((encode p i).1 = .command → ∀ b ∈ (encode p i).2, b.toNat < 16)

/-- One op code is a command word. -/
theorem of_command {i : Instr} {b : Byte} (h : ∀ p, encode p i = (.command, [b])) (hb : b.toNat < 16) : Statement i := by
  intro p
  rw [h]
  exact ⟨rfl, fun _ c hc => by rw [List.mem_singleton.1 hc]; exact hb⟩

/-- One device code is a frame word. -/
theorem of_frame {i : Instr} {f : Params → Byte} (h : ∀ p, encode p i = (.frame, [f p])) : Statement i := by
  intro p
  rw [h]
  exact ⟨rfl, fun hc => by cases hc⟩

theorem nop : Statement .nop := of_command (fun _ => rfl) (by decide)
theorem append : Statement .append := of_command (fun _ => rfl) (by decide)
theorem poll : Statement .poll := of_command (fun _ => rfl) (by decide)
theorem reset : Statement .reset := of_command (fun _ => rfl) (by decide)
theorem extract : Statement .extract := of_command (fun _ => rfl) (by decide)
theorem validate : Statement .validate := of_command (fun _ => rfl) (by decide)
theorem requeue : Statement .requeue := of_command (fun _ => rfl) (by decide)
theorem decode : Statement .decode := of_command (fun _ => rfl) (by decide)
theorem emit : Statement .emit := of_command (fun _ => rfl) (by decide)
theorem reserved9 : Statement .reserved9 := of_command (fun _ => rfl) (by decide)
theorem reservedA : Statement .reservedA := of_command (fun _ => rfl) (by decide)
theorem reservedB : Statement .reservedB := of_command (fun _ => rfl) (by decide)
theorem reservedC : Statement .reservedC := of_command (fun _ => rfl) (by decide)
theorem reservedD : Statement .reservedD := of_command (fun _ => rfl) (by decide)
theorem reservedE : Statement .reservedE := of_command (fun _ => rfl) (by decide)
theorem reservedF : Statement .reservedF := of_command (fun _ => rfl) (by decide)
theorem delim : Statement .delim := fun _ => ⟨rfl, fun h => by cases h⟩
theorem decRain : Statement .decRain := of_frame (fun _ => rfl)
theorem decThermo : Statement .decThermo := of_frame (fun _ => rfl)
theorem decBaro : Statement .decBaro := of_frame (fun _ => rfl)
theorem decUv : Statement .decUv := of_frame (fun _ => rfl)
theorem decAnemo : Statement .decAnemo := of_frame (fun _ => rfl)
theorem decClock : Statement .decClock := of_frame (fun _ => rfl)
theorem decUnknown (code : Byte) : Statement (.decUnknown code) := of_frame (fun _ => rfl)

end Sys2Proof.Laws.EncodedInItsSpace
end

