-- ==== Sys2Proof/Machine/Tables.lean ====
section
/-! DEFINITION. The three description tables (44_decoder.md R95 to R97). They are presentation for the reader's display layer, not
part of the block's behaviour (92 D27): no meaning reads them, the outputs carry the index. Entries the spec marks as general
knowledge are PRESUMED (log entry 7). -/

namespace Sys2Proof.Machine

/-- The weather description of an index (44_decoder.md R95); none where the spec gives no text (index 4). -/
def weatherText : Nat → Option String
  | 0 => some "Partly Cloudy"
  | 1 => some "Rainy"
  | 2 => some "Cloudy"
  | 3 => some "Sunny"
  | 4 => none
  | 5 => some "Snowy"
  | _ => some "Unknown"

/-- The trend description of an index (44_decoder.md R96); none where the spec gives no text. -/
def trendText : Nat → Option String
  | 0 => some "Steady"
  | 1 => some "Rising"
  | 2 => some "Falling"
  | _ => none

/-- The sixteen compass points, index 0 first (44_decoder.md R97). -/
def compassPoints : List String :=
  ["N", "NNE", "NE", "ENE", "E", "ESE", "SE", "SSE", "S", "SSW", "SW", "WSW", "W", "WNW", "NW", "NNW"]

/-- The compass point of `dir_idx` (44_decoder.md R97); none past the table. -/
def compassText (idx : Nat) : Option String := compassPoints[idx]?

end Sys2Proof.Machine
end

