-- ==== Sys2Proof/Tests/Slice0.lean ====
section
/-! SUPPORT. Tests of single steps, with expected values from the vectors V<n> of 95_test_vectors.md, words from 30_encoding.md, and
for every statement with hypotheses a state that meets them (`wit_<statement>`). -/

namespace Sys2Proof.Tests

open Sys2Proof Sys2Proof.Machine

/-- The block after reset with these bytes in SB. -/
def holding (sb : List Byte) : State := { State.reset with sb := sb }

/-- The block in the middle of a POLL. -/
def standing (m : Micro) (sb : List Byte) : State := { State.reset with micro := m, sb := sb }

/-- The block with a command on its pins. -/
def presenting (p : Pins) (sb : List Byte) : State := { State.reset with port := p, sb := sb }

/-- The block with a finite BUF_CAP. -/
def capped (n : Nat) (s : State) : State := { s with params := { s.params with bufCap := some n } }

/-- What a next state holds; none where the machine stops. -/
def see {α : Type} (r : Result) (f : State → α) : Option α :=
  match r with
  | .next t => some (f t)
  | _ => none

/-- Whether a run answers a next state. -/
def goes (r : Result) : Bool := (see r fun _ => ()).isSome

theorem exists_next {r : Result} (h : goes r = true) : ∃ t, r = .next t := by
  match r, h with
  | .next t, _ => exact ⟨t, rfl⟩

theorem clean_of {q : List Byte} (h : findDelim q 0 = none) (hl : q.getLast? ≠ some (0xFF : Byte)) : Clean q :=
  ⟨fun i => findDelim_eq_none h i (Nat.zero_le i), hl⟩

/-! ## Decoding -/

/-- 30_encoding.md R38, the op codes bit by bit. -/
theorem test_decode_commands :
    [0b0000, 0b0001, 0b0010, 0b0011, 0b0100, 0b0101, 0b0110, 0b0111, 0b1000, 0b1001, 0b1010, 0b1011, 0b1100, 0b1101, 0b1110,
        0b1111].map (fun b => (decode Params.default .command [b]).toOption) =
      [Instr.nop, .append, .poll, .reset, .extract, .validate, .requeue, .decode, .emit, .reserved9, .reservedA, .reservedB,
        .reservedC, .reservedD, .reservedE, .reservedF].map (fun i => some (i, [])) := by decide

/-- 30_encoding.md R40: FF FF, and the byte after it stays. -/
theorem test_decode_delim :
    (decode Params.default .stream [0b11111111, 0b11111111, 0x41]).toOption = some (.delim, [0x41]) := by decide

/-- 30_encoding.md R42, the device codes bit by bit; 0x00 and 0x61 are unknown. -/
theorem test_decode_frames :
    [0b01000001, 0b01000010, 0b01000110, 0b01000111, 0b01001000, 0b01100000, 0b00000000, 0b01100001].map
        (fun b => (decode Params.default .frame [b]).toOption) =
      [Instr.decRain, .decThermo, .decBaro, .decUv, .decAnemo, .decClock, .decUnknown 0x00, .decUnknown 0x61].map
        (fun i => some (i, [])) := by decide

/-- Bytes that are no word of a space are rejected by name. -/
theorem test_decode_rejects :
    decode Params.default .command [0x10] = .error .opTooWide ∧ decode Params.default .stream [0xFF, 0x00] = .error .notDelimiter ∧
      decode Params.default .stream [0xFF] = .error .truncated ∧ decode Params.default .command [] = .error .truncated ∧
      decode Params.default .frame [] = .error .truncated := by decide

/-- DEC_UNKNOWN with a code of another row is ill formed (30_encoding.md section 9). -/
theorem test_wellFormed_refuses :
    [0x41, 0x42, 0x46, 0x47, 0x48, 0x60].map (fun c => (Instr.decUnknown c).wellFormed Params.default) =
      [false, false, false, false, false, false] ∧
    (Instr.decUnknown 0x43).wellFormed Params.default = true ∧ Instr.poll.wellFormed Params.default = true := by decide

/-- The encoder writes the words of the tables (30_encoding.md R38, R40, R42). -/
theorem test_encode :
    encode Params.default .requeue = (.command, [0b00000110]) ∧ encode Params.default .delim = (.stream, [0b11111111, 0b11111111]) ∧
      encode Params.default .decThermo = (.frame, [0b01000010]) ∧ encode Params.default .decAnemo = (.frame, [0b01001000]) := by
  decide

/-- A word placed after reset is run by the very next step: POLL finds nothing, DELIM finds a start, DEC_UV reads a zero frame. -/
theorem test_withFetchWord :
    see (step (State.reset.withFetchWord 8 0x02)) State.status = some 2 ∧
      see (step (State.reset.withFetchWord 16 0xFFFF)) State.micro = some (.seekEnd true 2) ∧
      see (step (State.reset.withFetchWord 8 0x47)) State.micro =
        some (.emit (.reading .uv false (.uv ⟨0, true, 0⟩))) := by decide

/-! ## The accessors and the registry -/

/-- V4, V11, V12, V18. -/
theorem test_accessors :
    (List.range 8).map (fun i => (bitsAt [0x90] 0 i 1).toOption) =
      [some 0, some 0, some 0, some 0, some 1, some 0, some 0, some 1] ∧
    nibbleRun [0x21, 0x43, 0x65, 0x87] 0 0 3 = .ok 0x321 ∧ nibbleRun [0x21, 0x43, 0x65, 0x87] 0 1 3 = .ok 0x432 ∧
      wordAt [0x21, 0x43, 0x65, 0x87] 0 = .ok 0x4321 := by decide

/-- V2, V7, V17, V20. -/
theorem test_accessors_outside :
    byteAt [0x90, 0x60, 0x03] 3 = .error (.outOfRange 3 3) ∧ bitsAt [0x90] 0 4 5 = .error (.undefinedBitSpan 4 5) ∧
      nibbleRun [0x21, 0x43] 1 1 3 = .error (.outOfRange 2 2) ∧
      wordAt [0x21, 0x43, 0x65, 0x87] 3 = .error (.outOfRange 4 4) := by decide

/-- V23, V24. -/
theorem test_registry :
    [0x00, 0x40, 0x43, 0x49, 0x61, 0xFF].map (lookup Params.default) =
      [.unknown, .unknown, .unknown, .unknown, .unknown, .unknown] ∧
    [DeviceKind.rainfall, .thermohygrometer, .barometer, .uv, .anemometer, .clock].map expectedLength =
      [some 17, some 12, some 8, some 6, some 11, some 12] := by decide

/-! ## One step each -/

/-- V65. -/
theorem test_nop : see (exec .nop (holding [0xFF, 0xFF, 0x00, 0x47])) (fun t => (t.status, t.out, t.sb)) =
    some (0, none, [0xFF, 0xFF, 0x00, 0x47]) := by decide

/-- V26, V27, V33: the statuses. -/
theorem test_append_status :
    see (exec .append (presenting (cmdAppend [7, 0, 1, 2, 3, 4, 5, 6, 7]) [])) (fun t => (t.status, t.sb)) =
      some (0, [1, 2, 3, 4, 5, 6, 7]) ∧
    see (exec .append (presenting (cmdAppend [8, 0, 1, 2, 3, 4, 5, 6, 7]) [])) (fun t => (t.status, t.sb)) = some (1, []) ∧
    see (exec .append (presenting (cmdAppend [5, 0, 1, 2, 3, 4, 5, 6, 7, 8]) [])) (fun t => (t.status, t.sb)) =
      some (1, []) := by decide

/-- V34: report id and filler are not read. -/
theorem test_append_payload :
    see (exec .append (presenting (cmdAppend [3, 0x55, 0, 0xFF, 0xFF, 0, 0, 0, 0]) [])) (fun t => t.sb) =
      some [0, 0xFF, 0xFF] := by decide

/-- V68. -/
theorem test_poll_reading :
    see (exec .poll (presenting (cmdPoll true) [0xFF, 0xFF, 0x00, 0x47, 0x01, 0x05, 0x4D, 0x00, 0xFF, 0xFF]))
        (fun t => (t.status, t.validPulse, t.out, t.sb)) =
      some (5, true, some (.reading .uv false (.uv ⟨0, true, 5⟩)), [0xFF, 0xFF]) := by decide

/-- V71. -/
theorem test_poll_truncated :
    see (exec .poll (presenting (cmdPoll false)
        [0xFF, 0xFF, 0x00, 0x46, 0xDA, 0x13, 0xDA, 0x03, 0x11, 0x02, 0xAA, 0xBB, 0xFF, 0xFF])) (fun t => (t.status, t.out, t.sb)) =
      some (25, some (.invalid .errChecksum true 529 528 8 [0x00, 0x46, 0xDA, 0x13, 0xDA, 0x03, 0x11, 0x02]),
        [0xAA, 0xBB, 0xFF, 0xFF]) := by decide

/-- V66. -/
theorem test_reset : see (exec .reset (holding [0xFF, 0xFF, 0x00, 0x47])) (fun t => (t.status, t.out, t.sb)) =
    some (0, none, []) := by decide

/-- V42. -/
theorem test_extract_frame :
    see (exec .extract (standing (.extract true) [0xFF, 0xFF, 0xFF, 0x0A, 0x0B, 0xFF, 0xFF])) (fun t => (t.micro, t.sb)) =
      some (.validate true [0xFF, 0x0A, 0x0B], [0xFF, 0xFF]) := by decide

/-- V39, V41. -/
theorem test_extract_none :
    see (exec .extract (standing (.extract true) [0xFF, 0xFF, 0xFF])) (fun t => (t.status, t.sb)) =
      some (3, [0xFF, 0xFF, 0xFF]) ∧
    see (exec .extract (standing (.extract true) [0x12, 0x34, 0xFF, 0xFF, 0xFF, 0xFF, 0x00])) (fun t => (t.status, t.sb)) =
      some (4, [0xFF, 0xFF, 0x00]) := by decide

/-- V37, V38: the start search, and the end search after it. -/
theorem test_delim :
    see (exec .delim (standing (.seekStart true) [0x12, 0xFF, 0x34, 0xFF, 0x56])) State.status = some 2 ∧
      see (exec .delim (standing (.seekStart true) [0xFF, 0xFF])) State.micro = some (.seekEnd true 2) ∧
      see (exec .delim (standing (.seekEnd true 2) [0xFF, 0xFF])) State.status = some 3 := by decide

/-- V49. -/
theorem test_validate_truncates :
    see (exec .validate (standing
        (.validate true [0x00, 0x46, 0xDA, 0x13, 0xDA, 0x03, 0x10, 0x02, 0xAA, 0xBB, 0xCC, 0xDD, 0xEE]) [0xFF, 0xFF]))
        (fun t => (t.micro, t.sb)) =
      some (.decode .barometer [0x00, 0x46, 0xDA, 0x13, 0xDA, 0x03, 0x10, 0x02] true,
        [0xAA, 0xBB, 0xCC, 0xDD, 0xEE, 0xFF, 0xFF]) := by decide

/-- V44, V45, V54: a short frame, a runt, and a checksum whose high byte counts. -/
theorem test_validate_errors :
    see (exec .validate (standing (.validate true [0x00, 0x46, 0x01, 0x05, 0x4D, 0x00]) [])) State.status = some 8 ∧
      see (exec .validate (standing (.validate true [0x41]) [])) State.status = some 6 ∧
      see (exec .validate (standing (.validate false [0x00, 0x47, 0x01, 0x05, 0x4D, 0x01]) [])) State.micro =
        some (.emit (.invalid .errChecksum false 333 77 6 [0x00, 0x47, 0x01, 0x05, 0x4D, 0x01])) := by decide

/-- V50's requeue: the bytes stand before what SB held. -/
theorem test_requeue :
    see (exec .requeue (standing
        (.requeue true .barometer [0x00, 0x46, 0xDA, 0x13, 0xDA, 0x03, 0x11, 0x02] [0xAA, 0xBB]) [0xFF, 0xFF])) State.sb =
      some [0xAA, 0xBB, 0xFF, 0xFF] := by decide

/-- V47: the error carries the device code. -/
theorem test_decUnknown :
    see (exec (.decUnknown 0x00) (standing (.unknown false [0x00, 0x00, 0x01, 0x02, 0x03, 0x00]) [])) State.micro =
      some (.emit (.invalid .errUnknownDevice false 0 0 6 [0x00, 0x00, 0x01, 0x02, 0x03, 0x00])) := by decide

/-- V61, through DECODE. -/
theorem test_decode :
    see (exec .decode (standing (.decode .uv [0x40, 0x47, 0x00, 0x0B, 0x92, 0x00] false) [])) State.micro =
      some (.emit (.reading .uv false (.uv ⟨4, false, 11⟩))) := by decide

/-- V61's record, delivered. -/
theorem test_emit :
    see (exec .emit (standing (.emit (.reading .uv false (.uv ⟨4, false, 11⟩))) [])) (fun t => (t.status, t.validPulse, t.out)) =
      some (5, true, some (.reading .uv false (.uv ⟨4, false, 11⟩))) := by decide

/-- V72, for every refused code. -/
theorem test_illegal :
    [Instr.extract, .validate, .requeue, .decode, .emit, .reserved9, .reservedA, .reservedB, .reservedC, .reservedD, .reservedE,
        .reservedF].map (fun i => see (exec i (holding [0xFF, 0xFF])) (fun t => (t.status, t.out, t.sb))) =
      List.replicate 12 (some (10, none, [0xFF, 0xFF])) := by decide

/-- V55; also a witness of `RainfallFields`. -/
theorem test_decRain :
    see (exec .decRain (standing (.routine .rainfall
        [0x00, 0x41, 0x2C, 0x01, 0x0A, 0x00, 0x7B, 0x00, 0x39, 0x30, 0x1E, 0x08, 0x0F, 0x06, 0x14, 0xAB, 0x01] false) []))
        State.micro =
      some (.emit (.reading .rainfall false (.rain ⟨0, true, 300, 10, 123, 12345, 30, 8, 15, 6, 2020⟩))) := by decide

/-- V58; also a witness of `ThermohygrometerFields`. -/
theorem test_decThermo :
    see (exec .decThermo (standing (.routine .thermohygrometer
        [0x40, 0x42, 0x12, 0x35, 0x80, 0x50, 0x65, 0x10, 0x5A, 0x00, 0x68, 0x02] false) [])) State.micro =
      some (.emit (.reading .thermohygrometer false
        (.thermo ⟨false, 0, 2, 2, true, 53, -53, 80, true, 101, -101, some ⟨90, -90⟩⟩))) := by decide

/-- V57: no heat index. -/
theorem test_decThermo_no_heat :
    see (exec .decThermo (standing (.routine .thermohygrometer
        [0x10, 0x42, 0x01, 0xEB, 0x00, 0x2D, 0x70, 0x00, 0x00, 0x20, 0xFB, 0x01] false) [])) State.micro =
      some (.emit (.reading .thermohygrometer false
        (.thermo ⟨true, 1, 1, 1, false, 235, 235, 45, false, 112, 112, none⟩))) := by decide

/-- V60; also a witness of `BarometerFields`. -/
theorem test_decBaro :
    see (exec .decBaro (standing (.routine .barometer [0x00, 0x46, 0xF4, 0x73, 0xE8, 0xF3, 0x88, 0x03] false) [])) State.micro =
      some (.emit (.reading .barometer false (.baro ⟨1012, 1000, 7, 15⟩))) := by decide

/-- V61; also a witness of `UvFields`. -/
theorem test_decUv :
    see (exec .decUv (standing (.routine .uv [0x40, 0x47, 0x00, 0x0B, 0x92, 0x00] false) [])) State.micro =
      some (.emit (.reading .uv false (.uv ⟨4, false, 11⟩))) := by decide

/-- V62, V63: a byte shared by gust and average; also witnesses of `AnemometerFields`. -/
theorem test_decAnemo :
    see (exec .decAnemo (standing (.routine .anemometer
        [0x00, 0x48, 0x04, 0x00, 0x7B, 0x50, 0x01, 0x05, 0x80, 0x9D, 0x01] false) [])) State.micro =
      some (.emit (.reading .anemometer false (.anemo ⟨0, true, 4, 900, 123, 21, some ⟨true, 5, -5⟩⟩))) ∧
    see (exec .decAnemo (standing (.routine .anemometer
        [0x40, 0x48, 0x0F, 0x00, 0xFF, 0x0F, 0x00, 0x0C, 0x00, 0xB1, 0x01] false) [])) State.micro =
      some (.emit (.reading .anemometer false (.anemo ⟨4, false, 15, 3375, 4095, 0, some ⟨false, 12, 12⟩⟩))) := by decide

/-- V64; also a witness of `ClockFields`. -/
theorem test_decClock :
    see (exec .decClock (standing (.routine .clock
        [0x00, 0x60, 0x00, 0x00, 0x3B, 0x17, 0x1F, 0x0C, 0x63, 0xFB, 0x3B, 0x02] false) [])) State.micro =
      some (.emit (.reading .clock false (.clock ⟨true, true, false, true, 59, 23, 31, 12, 2099, 251⟩))) := by decide

/-! ## Witnesses: states and operands that meet the hypotheses of a statement -/

theorem wit_NopReportsOkAndWritesNothing : (holding [0xFF]).micro = .idle := by decide

theorem wit_ResetEmptiesTheBuffer : (capped 1 { holding [0xFF] with ovf := true }).micro = .idle := by decide

theorem wit_RstPinActsAsResetCommand : ∃ (s : State) (p : Pins) (rest : List Pins),
    s.micro = .idle ∧ s.pending = p :: rest ∧ p.rst = true :=
  ⟨{ holding [0xFF] with pending := [pinReset, cmdNop] }, pinReset, [cmdNop], by decide⟩

theorem wit_IllegalCodesAreRefusedWithoutEffect :
    (holding [0xFF]).micro = .idle ∧ 4 ≤ (4 : BitVec 4).toNat ∧ 4 ≤ (15 : BitVec 4).toNat := by decide

/-- A chunk of CAP bytes with the largest `N`, and the shortest valid chunk. -/
theorem wit_AppendTakesValidChunksOnly_valid :
    ∀ c ∈ ([[7, 0, 1, 2, 3, 4, 5, 6, 7], [1, 0, 0xAB]] : List (List Byte)),
      let s := presenting (cmdAppend c) []
      s.micro = .idle ∧ s.ovfSet = false ∧ 1 ≤ s.port.chunkLen.toNat ∧ s.port.chunkLen.toNat ≤ s.params.cap.toNat ∧
        ∃ b ∈ s.port.ch[0]?, 1 ≤ b.toNat ∧ b.toNat + 2 ≤ s.port.chunkLen.toNat ∧
          s.fits (s.sb ++ slice s.port.ch 2 (b.toNat + 2)) = true := by decide

/-- Longer than CAP, empty, `N` = 0, `N` = L - 1. -/
theorem wit_AppendTakesValidChunksOnly_bad :
    (∀ c ∈ ([[5, 0, 1, 2, 3, 4, 5, 6, 7, 8], []] : List (List Byte)),
      let s := presenting (cmdAppend c) []
      s.micro = .idle ∧ s.ovfSet = false ∧ (s.port.chunkLen.toNat > s.params.cap.toNat ∨ s.port.chunkLen.toNat < 1)) ∧
    (∀ c ∈ ([[0, 0, 1], [2, 0, 1]] : List (List Byte)),
      let s := presenting (cmdAppend c) []
      s.micro = .idle ∧ s.ovfSet = false ∧
        ∃ b ∈ s.port.ch[0]?, b.toNat < 1 ∨ b.toNat + 2 > s.port.chunkLen.toNat) := by decide

theorem wit_AppendLeavesEarlierBytes : ∃ t, exec .append (presenting (cmdAppend [1, 0, 0xAB]) [0x12]) = .next t :=
  exists_next (by decide)

/-- One byte more than BUF_CAP, on APPEND. -/
theorem wit_OverflowIsStickyUntilReset_append :
    let s := capped 1 (presenting (cmdAppend [1, 0, 0xAB]) [0x12])
    s.micro = .idle ∧ s.ovfSet = false ∧ 1 ≤ s.port.chunkLen.toNat ∧ s.port.chunkLen.toNat ≤ s.params.cap.toNat ∧
      s.port.ch[0]? = some 1 ∧ 1 ≤ (1 : Byte).toNat ∧ (1 : Byte).toNat + 2 ≤ s.port.chunkLen.toNat ∧
      s.fits (s.sb ++ slice s.port.ch 2 ((1 : Byte).toNat + 2)) = false := by decide

/-- One byte more than BUF_CAP, on REQUEUE. -/
theorem wit_OverflowIsStickyUntilReset_requeue :
    let s := capped 2 (standing (.requeue true .uv [0, 0x47, 0, 0, 0, 0] [0xAA]) [0xFF, 0xFF])
    s.micro = .requeue true .uv [0, 0x47, 0, 0, 0, 0] [0xAA] ∧ s.fits ([0xAA] ++ s.sb) = false := by decide

/-- OVF set, with a refused code at the edge of its range. -/
theorem wit_OverflowIsStickyUntilReset_set :
    (capped 1 { holding [0xFF] with ovf := true }).micro = .idle ∧ (capped 1 { holding [0xFF] with ovf := true }).ovfSet = true ∧
      4 ≤ (4 : BitVec 4).toNat := by decide

theorem wit_OverflowIsStickyUntilReset_sticky :
    (∃ t, exec .nop (capped 1 { holding [0xFF] with ovf := true }) = .next t) ∧ Instr.nop ≠ .reset ∧
      (capped 1 { holding [0xFF] with ovf := true }).ovf = true := ⟨exists_next (by decide), by decide⟩

theorem wit_OverflowIsStickyUntilReset_unbounded : ({ holding [0xFF] with ovf := true } : State).params.bufCap = none := by decide

/-- Both cases of the search, an occurrence at the last place included. -/
theorem wit_FindDelimIsTheLeastOccurrence :
    findDelim [0x12, 0xFF, 0xFF] 0 = some 1 ∧ findDelim [0xFF, 0xFF, 0xFF] 1 = some 1 ∧ findDelim [0xFF, 0xFF, 0xFF] 2 = none := by
  decide

theorem wit_DelimSearchesForStartAndEnd :
    (standing (.seekStart true) []).micro = .seekStart true ∧ (standing (.seekEnd false 2) [0xFF, 0xFF]).micro = .seekEnd false 2 := by
  decide

theorem wit_ExtractFollowsItsPseudocode :
    [[], [0xFF, 0xFF], [0xFF, 0xFF, 0xFF, 0xFF], [0xFF, 0xFF, 0x41, 0xFF, 0xFF]].map
        (fun q => ((standing (.extract true) q).micro, (extractRef q).1)) =
      [(.extract true, .noStart), (.extract true, .noEnd), (.extract true, .empty), (.extract true, .frame [0x41])] := by decide

theorem wit_ExtractedFramesAreClean :
    see (exec .extract (standing (.extract true) [0xFF, 0xFF, 0x41, 0xFF, 0xFF])) State.micro =
      some (.validate true [0x41]) := by decide

theorem wit_ExtractTakesTheBodyBetweenDelimiters : ∃ (s : State) (garbage body rest : List Byte),
    s.micro = .extract true ∧ Clean garbage ∧ Clean body ∧ body ≠ [] ∧
      s.sb = garbage ++ [0xFF, 0xFF] ++ body ++ [0xFF, 0xFF] ++ rest :=
  ⟨standing (.extract true) [0x12, 0xFF, 0xFF, 0xFF, 0x0A, 0xFF, 0xFF], [0x12], [0xFF, 0x0A], [], by decide,
    clean_of (by decide) (by decide), clean_of (by decide) (by decide), by decide, by decide⟩

/-- An empty body, and a frame. -/
theorem wit_ExtractResynchronisesAtADelimiter :
    see (exec .extract (standing (.extract true) [0xFF, 0xFF, 0xFF, 0xFF])) (fun t => (t.micro, t.status)) = some (.idle, 4) ∧
      see (exec .extract (standing (.extract true) [0xFF, 0xFF, 0x41, 0xFF, 0xFF])) State.micro =
        some (.validate true [0x41]) := by decide

theorem wit_RequeuePrepends :
    let s := capped 3 (standing (.requeue true .uv [0, 0x47, 0, 0, 0, 0] [0xAA]) [0xFF, 0xFF])
    s.micro = .requeue true .uv [0, 0x47, 0, 0, 0, 0] [0xAA] ∧ s.fits ([0xAA] ++ s.sb) = true := by decide

/-- All three results of VALIDATE: a frame, an error, and an overflow of its REQUEUE. -/
theorem wit_ValidateFollowsItsPseudocode :
    let ok := standing (.validate true [0x00, 0x47, 0x01, 0x05, 0x4D, 0x00]) []
    let runt := standing (.validate false [0x41]) []
    let full := capped 0 (standing (.validate true [0x00, 0x47, 0x01, 0x05, 0x4D, 0x00, 0x00]) [])
    ok.micro = .validate true [0x00, 0x47, 0x01, 0x05, 0x4D, 0x00] ∧ runt.micro = .validate false [0x41] ∧
      validateRef full.params full.fits [0x00, 0x47, 0x01, 0x05, 0x4D, 0x00, 0x00] full.sb = .ok (.overflow, []) := by decide

theorem wit_UnknownCodesFailWithoutLengthTest :
    ([0x00, 0x61] : List Byte)[1]? = some 0x61 ∧ lookup State.reset.params 0x61 = .unknown ∧
      (standing (.validate true [0x00, 0x61]) []).micro = .validate true [0x00, 0x61] ∧
      (standing (.unknown true [0x00, 0x61]) []).micro = .unknown true [0x00, 0x61] := by decide

theorem wit_RuntFramesFail : (standing (.validate true [0x41]) []).micro = .validate true [0x41] := by decide

/-- The shortest frame with a code, and one byte short (V44, V46). -/
theorem wit_ShortFramesFail :
    ∀ fr ∈ ([[0x00, 0x47], [0x00, 0x47, 0x01, 0x05, 0x4D]] : List (List Byte)),
      (standing (.validate true fr) []).micro = .validate true fr ∧ fr[1]? = some 0x47 ∧
        expectedLength (lookup State.reset.params 0x47) = some 6 ∧ fr.length < 6 := by decide

/-- A trailer that matches and one that does not (S3, V54). -/
theorem wit_ChecksumIsCompared :
    ∀ hi ∈ ([0x00, 0x01] : List Byte),
      let q : List Byte := [0x00, 0x47, 0x01, 0x05]
      (standing (.validate true (q ++ [0x4D, hi])) []).micro = .validate true (q ++ [0x4D, hi]) ∧ q[1]? = some 0x47 ∧
        expectedLength (lookup State.reset.params 0x47) = some (q.length + 2) := by decide

theorem wit_CorrectTrailerPassesValidation :
    ([0x00, 0x47, 0x01, 0x05] : List Byte)[1]? = some 0x47 ∧
      expectedLength (lookup State.reset.params 0x47) = some (([0x00, 0x47, 0x01, 0x05] : List Byte).length + 2) ∧
      (standing (.validate true (withTrailer [0x00, 0x47, 0x01, 0x05])) []).micro =
        .validate true (withTrailer [0x00, 0x47, 0x01, 0x05]) := by decide

/-- The first and the last byte before the trailer, the lowest and the highest bit. -/
theorem wit_SingleBitErrorsAreDetected :
    ∀ x ∈ ([(0, 0), (3, 7)] : List (Nat × Nat)), ∃ b ∈ ([0x00, 0x47, 0x01, 0x05] : List Byte)[x.1]?,
      ([0x00, 0x47, 0x01, 0x05] : List Byte)[1]? = some 0x47 ∧
      expectedLength (lookup State.reset.params 0x47) = some (([0x00, 0x47, 0x01, 0x05] : List Byte).length + 2) ∧
      x.1 ≠ 1 ∧ x.2 < 8 ∧
      (standing (.validate true ((withTrailer [0x00, 0x47, 0x01, 0x05]).set x.1 (b ^^^ (1#8 <<< x.2)))) []).micro =
        .validate true ((withTrailer [0x00, 0x47, 0x01, 0x05]).set x.1 (b ^^^ (1#8 <<< x.2))) := by decide

/-- One surplus byte; a correct trailer inside the cut frame (V51), and a wrong one. -/
theorem wit_OversizedFramesAreCutAndRequeued :
    ∀ fr ∈ ([[0x00, 0x47, 0x01, 0x05, 0x4D, 0x00, 0x4D], [0x00, 0x47, 0x01, 0x05, 0x4E, 0x00, 0x4D]] : List (List Byte)),
      (standing (.validate true fr) []).micro = .validate true fr ∧ fr[1]? = some 0x47 ∧
      expectedLength (lookup State.reset.params 0x47) = some 6 ∧ 6 < fr.length ∧
      (standing (.validate true fr) []).fits (fr.drop 6 ++ []) = true := by decide

theorem wit_OversizedFramesAreCutAndRequeued_sums :
    expectedSum [0x00, 0x47, 0x01, 0x05, 0x4D, 0x00] = .ok (actualSum [0x00, 0x47, 0x01, 0x05, 0x4D, 0x00]) ∧
      expectedSum [0x00, 0x47, 0x01, 0x05, 0x4E, 0x00] ≠ .ok (actualSum [0x00, 0x47, 0x01, 0x05, 0x4E, 0x00]) := by decide

/-- Frames of the longest and the shortest registry length. -/
theorem wit_ChecksumSumsStaySmall :
    Validated .rainfall (List.replicate 17 0xFF) ∧ Validated .uv (List.replicate 6 0) := by decide

theorem wit_DecodeIsTotalOnValidatedFrames :
    ∀ k ∈ ([.rainfall, .thermohygrometer, .barometer, .uv, .anemometer, .clock] : List DeviceKind),
      (standing (.decode k (List.replicate ((expectedLength k).getD 0) 0xFF) true) []).micro =
          .decode k (List.replicate ((expectedLength k).getD 0) 0xFF) true ∧
        Validated k (List.replicate ((expectedLength k).getD 0) 0xFF) := by decide

theorem wit_RainfallFields :
    (standing (.routine .rainfall [0x00, 0x41, 0x2C, 0x01, 0x0A, 0x00, 0x7B, 0x00, 0x39, 0x30, 0x1E, 0x08, 0x0F, 0x06, 0x14, 0xAB, 0x01] false) []).micro =
      .routine .rainfall [0x00, 0x41, 0x2C, 0x01, 0x0A, 0x00, 0x7B, 0x00, 0x39, 0x30, 0x1E, 0x08, 0x0F, 0x06, 0x14, 0xAB, 0x01] false := by decide

theorem wit_ThermohygrometerFields :
    (standing (.routine .thermohygrometer [0x40, 0x42, 0x12, 0x35, 0x80, 0x50, 0x65, 0x10, 0x5A, 0x00, 0x68, 0x02] false) []).micro =
      .routine .thermohygrometer [0x40, 0x42, 0x12, 0x35, 0x80, 0x50, 0x65, 0x10, 0x5A, 0x00, 0x68, 0x02] false := by decide

theorem wit_BarometerFields :
    (standing (.routine .barometer [0x00, 0x46, 0xF4, 0x73, 0xE8, 0xF3, 0x88, 0x03] false) []).micro =
      .routine .barometer [0x00, 0x46, 0xF4, 0x73, 0xE8, 0xF3, 0x88, 0x03] false := by decide

theorem wit_UvFields :
    (standing (.routine .uv [0x40, 0x47, 0x00, 0x0B, 0x92, 0x00] false) []).micro =
      .routine .uv [0x40, 0x47, 0x00, 0x0B, 0x92, 0x00] false := by decide

theorem wit_AnemometerFields :
    (standing (.routine .anemometer [0x40, 0x48, 0x0F, 0x00, 0xFF, 0x0F, 0x00, 0x0C, 0x00, 0xB1, 0x01] false) []).micro =
      .routine .anemometer [0x40, 0x48, 0x0F, 0x00, 0xFF, 0x0F, 0x00, 0x0C, 0x00, 0xB1, 0x01] false := by decide

theorem wit_ClockFields :
    (standing (.routine .clock [0x00, 0x60, 0x00, 0x00, 0x3B, 0x17, 0x1F, 0x0C, 0x63, 0xFB, 0x3B, 0x02] false) []).micro =
      .routine .clock [0x00, 0x60, 0x00, 0x00, 0x3B, 0x17, 0x1F, 0x0C, 0x63, 0xFB, 0x3B, 0x02] false := by decide

theorem wit_ReadingsFitTheirWidths :
    ∀ k ∈ ([.rainfall, .thermohygrometer, .barometer, .uv, .anemometer, .clock] : List DeviceKind),
      Validated k (List.replicate ((expectedLength k).getD 0) 0xFF) := by decide

/-- Two frames of each kind that differ in every bit marked unused. -/
theorem wit_UnusedBitsDoNotChangeTheReading :
    ∀ k ∈ ([.rainfall, .thermohygrometer, .barometer, .uv, .anemometer, .clock] : List DeviceKind),
      Validated k (readMask k) ∧ Validated k (List.replicate (readMask k).length 0xFF) ∧
        (readMask k).zipWith (· &&& ·) (readMask k) =
          (List.replicate (readMask k).length (0xFF : Byte)).zipWith (· &&& ·) (readMask k) := by decide

/-- The last index inside, and a word that ends there. -/
theorem wit_AccessorsReadInside :
    let q : List Byte := [0x90, 0x60, 0x03]
    q[2]? = some 0x03 ∧ q[1]? = some 0x60 ∧ q[1 + 1]? = some 0x03 ∧ 1 ≤ 8 ∧ 0 + 8 ≤ 8 ∧ 7 + 1 ≤ 8 := by decide

/-- The first index outside, a word across the end, a span one bit too long, an empty span, the nibble offset 2. -/
theorem wit_AccessorsFailOutside :
    let q : List Byte := [0x90, 0x60, 0x03]
    q.length ≤ 3 ∧ q.length = 2 + 1 ∧ 8 < 4 + 5 ∧ (0 = 0 ∨ 8 < 0 + 0) ∧ 2 ≤ 2 := by decide

theorem wit_NibbleRunsAreLowNibbleFirst :
    ([0x21, 0x43] : List Byte)[0]? = some 0x21 ∧ ([0x21, 0x43] : List Byte)[0 + 1]? = some 0x43 := by decide

/-- A run that ends at the last nibble, one that goes one nibble further, an empty run, the offset 2. -/
theorem wit_NibbleRunsRoundTrip :
    let q : List Byte := [0x21, 0x43]
    (1 ≤ 1 ∧ 2 * 0 + 1 + 3 ≤ 2 * q.length) ∧ (1 ≤ 1 ∧ 1 ≤ 4 ∧ 2 * q.length < 2 * 0 + 1 + 4) ∧ 0 ≤ 1 ∧ 2 ≤ 2 := by decide

theorem wit_EmitDeliversTheRecord :
    (standing (.emit (.reading .uv true (.uv ⟨0, true, 5⟩))) []).micro = .emit (.reading .uv true (.uv ⟨0, true, 5⟩)) ∧
      (standing (.emit ((ValidationError.runtFrame 1).record false [0x41])) []).micro =
        .emit ((ValidationError.runtFrame 1).record false [0x41]) := by decide

theorem wit_PollRefinesItsPseudocode : (holding [0xFF]).micro = .idle ∧ (holding [0xFF]).ovfSet = false := by decide

theorem wit_PollMovesInTheFixedChain :
    (holding [0xFF]).ovfSet = false ∧ ∃ t, exec .poll (holding [0xFF]) = .next t := ⟨by decide, exists_next (by decide)⟩

/-- A reading, a truncated checksum error (V71), and the overflow status. -/
theorem wit_ValidPulseMarksReadings :
    see (exec .poll (holding [0xFF, 0xFF, 0x00, 0x47, 0x01, 0x05, 0x4D, 0x00, 0xFF, 0xFF])) State.status = some 5 ∧
      see (exec .poll (holding [0xFF, 0xFF, 0x00, 0x46, 0xDA, 0x13, 0xDA, 0x03, 0x11, 0x02, 0xAA, 0xBB, 0xFF, 0xFF]))
        State.status = some 25 ∧
      see (exec .poll (capped 1 { holding [0xFF] with ovf := true })) State.status = some 11 := by decide

theorem wit_SuppressHidesOnlyInvalidRecords : ∃ s1 s0,
    exec .poll { holding [0xFF, 0xFF, 0x41, 0xFF, 0xFF] with port := cmdPoll true } = .next s1 ∧
      exec .poll { holding [0xFF, 0xFF, 0x41, 0xFF, 0xFF] with port := cmdPoll false } = .next s0 := by
  obtain ⟨s1, h1⟩ := exists_next
    (r := exec .poll { holding [0xFF, 0xFF, 0x41, 0xFF, 0xFF] with port := cmdPoll true }) (by decide)
  obtain ⟨s0, h0⟩ := exists_next
    (r := exec .poll { holding [0xFF, 0xFF, 0x41, 0xFF, 0xFF] with port := cmdPoll false }) (by decide)
  exact ⟨s1, s0, h1, h0⟩

theorem wit_PollConsumesFromTheFrontOnly : ∃ t, exec .poll (holding [0xFF, 0xFF, 0x41, 0xFF, 0xFF]) = .next t :=
  exists_next (by decide)

/-- A drained POLL and one that is not. -/
theorem wit_PollMakesProgress :
    (holding [0xFF, 0xFF]).ovfSet = false ∧ see (exec .poll (holding [0xFF, 0xFF])) State.drained = some true ∧
      see (exec .poll (holding [0xFF, 0xFF, 0xFF, 0xFF])) State.drained = some false := by decide

theorem wit_PumpTerminates :
    (capped 2 (holding [0xFF, 0xFF])).micro = .idle ∧ (capped 2 (holding [0xFF, 0xFF])).ovfSet = false ∧
      (capped 2 (holding [0xFF, 0xFF])).fits (capped 2 (holding [0xFF, 0xFF])).sb = true := by decide

theorem wit_RequeuedBytesStandBeforeTheNextDelimiter : ∃ (s : State) (garbage body rest : List Byte),
    s.micro = .idle ∧ s.ovfSet = false ∧ Clean garbage ∧ Clean body ∧
      s.sb = garbage ++ [0xFF, 0xFF] ++ body ++ [0xFF, 0xFF] ++ rest ∧ body[1]? = some 0x47 ∧
      expectedLength (lookup s.params 0x47) = some 6 ∧ 6 < body.length ∧ s.fits s.sb = true :=
  ⟨holding [0xFF, 0xFF, 0x00, 0x47, 0x01, 0x05, 0x4D, 0x00, 0x4D, 0xFF, 0xFF], [],
    [0x00, 0x47, 0x01, 0x05, 0x4D, 0x00, 0x4D], [], by decide, by decide, clean_of (by decide) (by decide),
    clean_of (by decide) (by decide), by decide, by decide, by decide, by decide, by decide⟩

theorem wit_StepRunsTheDecodedInstruction :
    let s : State := { holding [0xFF] with pending := [cmdPoll true] }
    s.micro = .idle ∧ s.pending = [cmdPoll true] ∧ (cmdPoll true).rst = false ∧ (0x02 : Byte).setWidth 4 = (cmdPoll true).op ∧
      decode s.params .command [0x02] = .ok (.poll, []) ∧ (holding [0xFF]).pending = [] ∧
      (standing (.seekEnd true 2) [0xFF, 0xFF]).current = some .delim := by decide

theorem wit_InstructionsOutOfPlaceAreRefused :
    (standing (.extract true) []).micro ≠ .idle ∧ Instr.poll ∈ ([.nop, .append, .poll, .reset] : List Instr) ∧
      (holding []).micro = .idle ∧ Instr.delim ∈ ([.delim, .decRain] : List Instr) := by decide

theorem wit_CommandsAreAtomic :
    ({ holding [0xFF] with pending := [cmdPoll true] } : State).micro = .idle ∧
      ∃ t, step { holding [0xFF] with pending := [cmdPoll true] } = .next t := ⟨by decide, exists_next (by decide)⟩

theorem wit_InstructionsKeepTheInputs : ∃ t, exec .reset (presenting cmdReset [0xFF]) = .next t := exists_next (by decide)

/-- Each clause: an instruction that writes no SB, one that appends, two that drain, two that prepend, one that empties. -/
theorem wit_BufferIsWrittenInThreeWaysOnly :
    writesSB .nop = false ∧ goes (exec .nop (holding [])) = true ∧
      goes (exec .append (presenting (cmdAppend [1, 0, 0xAB]) [])) = true ∧
      goes (exec .extract (standing (.extract true) [0xFF, 0xFF])) = true ∧
      goes (exec .delim (standing (.seekStart true) [0xFF, 0xFF])) = true ∧
      goes (exec .requeue (standing (.requeue true .uv [0, 0x47, 0, 0, 0, 0] [0xAA]) [])) = true ∧
      goes (exec .validate (standing (.validate true [0x41]) [])) = true ∧ goes (exec .reset (holding [0xFF])) = true := by decide

/-- A state in the middle of a POLL that meets the invariant. -/
theorem inv_standing : Inv (standing (.extract true) [0xFF, 0xFF, 0x41, 0xFF, 0xFF]) :=
  ⟨by decide, fun _ => rfl, trivial, (fun h => by cases h), fun _ => ⟨rfl, rfl⟩⟩

theorem wit_StepKeepsTheInvariant : ∃ s t, Inv s ∧ step s = .next t := by
  obtain ⟨t, h⟩ := exists_next (r := step (standing (.extract true) [0xFF, 0xFF, 0x41, 0xFF, 0xFF])) (by decide)
  exact ⟨_, t, inv_standing, h⟩

theorem wit_NoStepStops : ∃ s, Inv s := ⟨_, inv_standing⟩

theorem wit_DecodeOfEncodeIsTheInstruction :
    ParamsOk Params.default ∧ (Instr.decUnknown 0x61).wellFormed Params.default = true ∧
      Instr.decRain.wellFormed Params.default = true ∧ Instr.delim.wellFormed Params.default = true := by decide

theorem wit_EncodeOfDecodeIsTheWord :
    decode Params.default .command [0x0F, 0x00] = .ok (.reservedF, [0x00]) ∧
      decode Params.default .stream [0xFF, 0xFF] = .ok (.delim, []) ∧
      decode Params.default .frame [0xFF] = .ok (.decUnknown 0xFF, []) := by decide

end Sys2Proof.Tests
end

/-! PROOFS of the statements about the block's state (10_state.md): the inputs and OVF, SB and the overflow, and the invariant.
A property of a POLL is proved of each micro-operation and carried over by `poll_keeps`. -/

namespace Sys2Proof.Machine

/-! ## Instructions: the host commands, and what POLL keeps -/

section Instructions

variable {s t : State}

/-- The four host commands; no command in progress stands at one of them. -/
def isCommand : Instr → Bool
  | .nop | .append | .poll | .reset => true
  | _ => false

theorem current_not_command {i : Instr} (h : s.current = some i) : isCommand i = false := by
  unfold State.current at h
  split at h <;> cases h
  case h_10 kind _ _ _ => cases kind <;> rfl
  all_goals rfl

/-- The instructions that have only a refusal at the port (45_pipeline.md R108). -/
def isReserved (i : Instr) : Prop :=
  i ∈ ([.reserved9, .reservedA, .reservedB, .reservedC, .reservedD, .reservedE, .reservedF] : List Instr)

theorem reserved_inv {i : Instr} (hi : isReserved i) (h : exec i s = .next t) :
    s.micro = .idle ∧ t = s.respond .illegalCmd := by
  refine illegal_eq_next s ?_
  simp only [isReserved, List.mem_cons, List.not_mem_nil, or_false] at hi
  rcases hi with rfl | rfl | rfl | rfl | rfl | rfl | rfl <;> exact h

/-- What every instruction outside the host commands keeps, a POLL keeps. -/
theorem poll_keeps {P : State → Prop}
    (hexec : ∀ (i : Instr) (a b : State), isCommand i = false → P a → exec i a = .next b → P b)
    (hovf : s.ovfSet = true → P (s.respond .faultOverflow)) (hstart : P s.startPoll)
    (h : exec .poll s = .next t) : P t := by
  obtain ⟨_, ⟨ho, rfl⟩ | ⟨_, hrun⟩⟩ := poll_inv h
  · exact hovf ho
  · refine runMicro_keeps (fun a b ha hab => ?_) 4 hstart hrun
    cases hc : a.current with
    | none =>
      have hidle : a.micro = .idle := current_eq_none.1 hc
      simp only [microStep, hidle] at hab
      cases hab
      exact ha
    | some i => exact hexec i a b (current_not_command hc) ha (microStep_eq hc ▸ hab)

end Instructions

/-! ## Inputs and OVF -/

section InputsAndOvf

variable {s t : State}

/-- The inputs are as they were and a set OVF is still set. -/
def KeepsInputsAndOvf (s t : State) : Prop := KeepsInputs s t ∧ (s.ovf = true → t.ovf = true)

theorem KeepsInputsAndOvf.trans {a b c : State} (h : KeepsInputsAndOvf a b) (h' : KeepsInputsAndOvf b c) :
    KeepsInputsAndOvf a c := by
  obtain ⟨⟨h1, h2, h3⟩, h4⟩ := h
  obtain ⟨⟨h1', h2', h3'⟩, h4'⟩ := h'
  exact ⟨⟨h1'.trans h1, h2'.trans h2, h3'.trans h3⟩, h4' ∘ h4⟩

theorem keepsInputsAndOvf_goto (s : State) (m : Micro) : KeepsInputsAndOvf s (s.goto m) := ⟨⟨rfl, rfl, rfl⟩, id⟩

theorem keepsInputsAndOvf_respond (s : State) (c : StatusCode) : KeepsInputsAndOvf s (s.respond c) :=
  ⟨⟨rfl, rfl, rfl⟩, id⟩

theorem keepsInputsAndOvf_report (s : State) (sup : Bool) (fr : List Byte) (tr : Bool) (e : ValidationError) :
    KeepsInputsAndOvf s (s.report sup fr tr e) := by
  simp [KeepsInputsAndOvf, KeepsInputs]

theorem append_keepsInputsAndOvf (h : exec .append s = .next t) : KeepsInputsAndOvf s t := by
  obtain ⟨_, ⟨c, _, rfl⟩ | ⟨rfl, _⟩ | ⟨p, _, rfl⟩⟩ := append_inv h <;> simp [KeepsInputsAndOvf, KeepsInputs]

theorem delim_keepsInputsAndOvf (h : exec .delim s = .next t) : KeepsInputsAndOvf s t := by
  obtain ⟨_, _, ⟨_, rfl⟩ | ⟨_, _, rfl⟩⟩ | ⟨_, _, _, ⟨_, rfl⟩ | ⟨_, _, ⟨_, rfl⟩ | ⟨_, rfl⟩⟩⟩ := delim_inv h <;>
    simp [KeepsInputsAndOvf, KeepsInputs]

theorem requeue_keepsInputsAndOvf (h : exec .requeue s = .next t) : KeepsInputsAndOvf s t := by
  obtain ⟨_, _, _, _, _, ⟨_, rfl⟩ | ⟨_, _, rfl⟩⟩ | ⟨_, rfl⟩ := requeue_inv h <;>
    simp [KeepsInputsAndOvf, KeepsInputs]

theorem decUnknown_keepsInputsAndOvf {code : Byte} (h : exec (.decUnknown code) s = .next t) :
    KeepsInputsAndOvf s t := by
  obtain ⟨_, _, _, _, rfl⟩ := decUnknown_inv h
  exact keepsInputsAndOvf_report ..

theorem validateCheck_keepsInputsAndOvf {sup : Bool} {kind : DeviceKind} {fr : List Byte} {tr : Bool}
    (h : validateCheck sup kind fr tr s = .next t) : KeepsInputsAndOvf s t := by
  obtain ⟨_, _, ⟨_, rfl⟩ | ⟨_, _, _, ⟨_, rfl⟩ | ⟨_, rfl⟩⟩⟩ := validateCheck_inv h
  · exact keepsInputsAndOvf_report ..
  · exact keepsInputsAndOvf_report ..
  · exact keepsInputsAndOvf_goto ..

theorem validate_keepsInputsAndOvf (h : exec .validate s = .next t) : KeepsInputsAndOvf s t := by
  obtain ⟨sup, fr, _, ⟨_, rfl⟩ | ⟨code, _, ⟨_, hu⟩ | ⟨n, _, ⟨_, s1, hq, ⟨_, rfl⟩ | ⟨_, hc⟩⟩ | ⟨_, hc⟩⟩⟩⟩ |
    ⟨_, _, _, _, _, hc⟩ | ⟨_, rfl⟩ := validate_inv h
  · exact keepsInputsAndOvf_report ..
  · exact (keepsInputsAndOvf_goto ..).trans (decUnknown_keepsInputsAndOvf hu)
  · exact (keepsInputsAndOvf_goto ..).trans (requeue_keepsInputsAndOvf hq)
  · exact ((keepsInputsAndOvf_goto ..).trans (requeue_keepsInputsAndOvf hq)).trans (validateCheck_keepsInputsAndOvf hc)
  · exact (keepsInputsAndOvf_goto ..).trans (validateCheck_keepsInputsAndOvf hc)
  · exact validateCheck_keepsInputsAndOvf hc
  · exact keepsInputsAndOvf_respond ..

theorem extract_keepsInputsAndOvf (h : exec .extract s = .next t) : KeepsInputsAndOvf s t := by
  obtain ⟨_, s1, _, h1, ⟨_, rfl⟩ | ⟨_, h2⟩⟩ | ⟨_, rfl⟩ := extract_inv h
  · exact (keepsInputsAndOvf_goto ..).trans (delim_keepsInputsAndOvf h1)
  · exact ((keepsInputsAndOvf_goto ..).trans (delim_keepsInputsAndOvf h1)).trans (delim_keepsInputsAndOvf h2)
  · exact keepsInputsAndOvf_respond ..

theorem routine_keepsInputsAndOvf {i : Instr} (hi : isRoutine i) (h : exec i s = .next t) : KeepsInputsAndOvf s t := by
  obtain ⟨_, _, _, _, _, _, _, rfl⟩ := routine_inv hi h
  exact keepsInputsAndOvf_goto ..

/-- No micro-operation and no refused code writes an input or clears OVF (10_state.md R11, R15). -/
theorem exec_keepsInputsAndOvf_of_not_command {i : Instr} (hi : isCommand i = false) (h : exec i s = .next t) :
    KeepsInputsAndOvf s t := by
  cases i with
  | nop | append | poll | reset => cases hi
  | extract => exact extract_keepsInputsAndOvf h
  | delim => exact delim_keepsInputsAndOvf h
  | validate => exact validate_keepsInputsAndOvf h
  | requeue => exact requeue_keepsInputsAndOvf h
  | decUnknown code => exact decUnknown_keepsInputsAndOvf h
  | decode =>
    obtain ⟨_, _, _, _, _, _, _, rfl⟩ | ⟨_, rfl⟩ := decode_inv h
    · exact (keepsInputsAndOvf_goto ..).trans (keepsInputsAndOvf_goto ..)
    · exact keepsInputsAndOvf_respond ..
  | emit =>
    obtain ⟨_, _, rfl⟩ | ⟨_, rfl⟩ := emit_inv h
    · exact ⟨⟨rfl, rfl, rfl⟩, id⟩
    · exact keepsInputsAndOvf_respond ..
  | decRain | decThermo | decBaro | decUv | decAnemo | decClock =>
    exact routine_keepsInputsAndOvf (by simp [isRoutine]) h
  | reserved9 | reservedA | reservedB | reservedC | reservedD | reservedE | reservedF =>
    obtain ⟨_, rfl⟩ := reserved_inv (by simp [isReserved]) h
    exact keepsInputsAndOvf_respond ..

/-- RESET alone clears OVF (10_state.md R11); no instruction at all writes an input. -/
theorem exec_keepsInputsAndOvf {i : Instr} (hi : i ≠ .reset) (h : exec i s = .next t) : KeepsInputsAndOvf s t := by
  cases hc : isCommand i with
  | false => exact exec_keepsInputsAndOvf_of_not_command hc h
  | true =>
    cases i with
    | nop =>
      obtain ⟨_, rfl⟩ := nop_inv h
      exact keepsInputsAndOvf_respond ..
    | append => exact append_keepsInputsAndOvf h
    | poll =>
      exact poll_keeps (P := KeepsInputsAndOvf s)
        (fun _ _ _ hi ha hab => ha.trans (exec_keepsInputsAndOvf_of_not_command hi hab))
        (fun _ => keepsInputsAndOvf_respond ..) ⟨⟨rfl, rfl, rfl⟩, id⟩ h
    | reset => exact absurd rfl hi
    | _ => cases hc

end InputsAndOvf

/-- Settles O50: RESET writes the block's own state only, every other instruction keeps inputs and OVF together. -/
theorem instructionsKeepTheInputs : Obligations.InstructionsKeepTheInputs := by
  intro i s t h
  by_cases hi : i = .reset
  · subst hi
    obtain ⟨_, rfl⟩ := reset_inv h
    exact ⟨rfl, rfl, rfl⟩
  · exact (exec_keepsInputsAndOvf hi h).1

/-- Settles O7, by the three answers of APPEND: a status alone, OVF set, or bytes appended. -/
theorem appendLeavesEarlierBytes : Obligations.AppendLeavesEarlierBytes := by
  intro s t h
  have hin : KeepsInputs s t := (append_keepsInputsAndOvf h).1
  obtain ⟨_, ⟨c, _, rfl⟩ | ⟨rfl, _⟩ | ⟨p, _, rfl⟩⟩ := append_inv h
  · exact ⟨fun _ _ => rfl, hin, rfl, rfl, rfl⟩
  · exact ⟨fun _ _ => rfl, hin, rfl, rfl, rfl⟩
  · refine ⟨fun i hi => ?_, hin, rfl, rfl, rfl⟩
    have hb : s.sb[i]? = some s.sb[i] := List.getElem?_eq_getElem hi
    have hb' : (s.sb ++ p)[i]? = some s.sb[i] := by rw [List.getElem?_append_left hi, hb]
    exact (byteAt_ok hb').trans (byteAt_ok hb).symm

/-! ## What each instruction writes to SB -/

section Buffer

variable {s t : State}

theorem decUnknown_sb {code : Byte} (h : exec (.decUnknown code) s = .next t) : t.sb = s.sb := by
  obtain ⟨_, _, _, _, rfl⟩ := decUnknown_inv h
  exact State.report_sb ..

theorem validateCheck_sb {sup : Bool} {kind : DeviceKind} {fr : List Byte} {tr : Bool}
    (h : validateCheck sup kind fr tr s = .next t) : t.sb = s.sb := by
  obtain ⟨_, _, ⟨_, rfl⟩ | ⟨_, _, _, ⟨_, rfl⟩ | ⟨_, rfl⟩⟩⟩ := validateCheck_inv h
  · exact State.report_sb ..
  · exact State.report_sb ..
  · rfl

/-- The instructions outside the rule's list leave SB as it is (10_state.md R10). -/
theorem exec_sb_of_not_writesSB {i : Instr} (hi : writesSB i = false) (h : exec i s = .next t) : t.sb = s.sb := by
  cases i with
  | append | poll | reset | extract | validate | requeue | delim => cases hi
  | nop =>
    obtain ⟨_, rfl⟩ := nop_inv h
    rfl
  | decode => obtain ⟨_, _, _, _, _, _, _, rfl⟩ | ⟨_, rfl⟩ := decode_inv h <;> rfl
  | emit => obtain ⟨_, _, rfl⟩ | ⟨_, rfl⟩ := emit_inv h <;> rfl
  | decUnknown code => exact decUnknown_sb h
  | decRain | decThermo | decBaro | decUv | decAnemo | decClock =>
    obtain ⟨_, _, _, _, _, _, _, rfl⟩ := routine_inv (by simp [isRoutine]) h
    rfl
  | reserved9 | reservedA | reservedB | reservedC | reservedD | reservedE | reservedF =>
    obtain ⟨_, rfl⟩ := reserved_inv (by simp [isReserved]) h
    rfl

theorem append_sb (h : exec .append s = .next t) : ∃ p, t.sb = s.sb ++ p := by
  obtain ⟨_, ⟨_, _, rfl⟩ | ⟨rfl, _⟩ | ⟨p, _, rfl⟩⟩ := append_inv h
  · exact ⟨[], by simp⟩
  · exact ⟨[], by simp⟩
  · exact ⟨p, rfl⟩

/-- The bytes of the frame in progress that a REQUEUE may still put back in front of SB: the whole frame before VALIDATE
has cut it, the surplus before REQUEUE, and none at any other point. -/
def Micro.held : Micro → List Byte
  | .validate _ fr => fr
  | .requeue _ _ _ extra => extra
  | _ => []

/-- The bytes still unread: those held in front of those of SB. -/
def State.unread (s : State) : List Byte := s.micro.held ++ s.sb

theorem State.sb_suffix_unread (s : State) : s.sb <:+ s.unread := List.suffix_append ..

theorem report_unread (s : State) (sup : Bool) (fr : List Byte) (tr : Bool) (e : ValidationError) :
    (s.report sup fr tr e).unread = s.sb := by cases sup <;> rfl

/-- A slice up to `f` with what follows index `f` is all that follows the slice's first index. -/
theorem slice_append_drop (q : List Byte) {a f : Nat} (h : a ≤ f) : slice q a f ++ q.drop f = q.drop a := by
  have hrest : q.drop f = (q.drop a).drop (f - a) := by rw [List.drop_drop, Nat.add_sub_cancel' h]
  rw [slice, List.drop_take, hrest, List.take_append_drop]

theorem delim_unread (h : exec .delim s = .next t) : t.unread <:+ s.sb := by
  obtain ⟨_, _, ⟨_, rfl⟩ | ⟨_, _, rfl⟩⟩ | ⟨_, b, _, ⟨_, rfl⟩ | ⟨f, hf, ⟨_, rfl⟩ | ⟨_, rfl⟩⟩⟩ := delim_inv h
  · exact List.suffix_refl _
  · exact List.suffix_refl _
  · exact List.suffix_refl _
  · exact List.drop_suffix f s.sb
  · have heq : slice s.sb b f ++ s.sb.drop f = s.sb.drop b := slice_append_drop s.sb (findDelim_eq_some hf).1
    have hdrop : s.sb.drop b <:+ s.sb := List.drop_suffix b s.sb
    rwa [← heq] at hdrop

theorem extract_unread (h : exec .extract s = .next t) : t.unread <:+ s.sb := by
  obtain ⟨sup, s1, _, h1, hs1⟩ | ⟨hm, rfl⟩ := extract_inv h
  · have hfirst : s1.unread <:+ s.sb := delim_unread (s := s.goto (.seekStart sup)) h1
    obtain ⟨_, rfl⟩ | ⟨_, h2⟩ := hs1
    · exact hfirst
    · exact (delim_unread h2).trans (s1.sb_suffix_unread.trans hfirst)
  · simp [State.unread, hm, Micro.held]

theorem requeue_unread (h : exec .requeue s = .next t) : t.unread <:+ s.unread := by
  obtain ⟨_, _, _, _, hm, ⟨_, rfl⟩ | ⟨_, _, rfl⟩⟩ | ⟨_, rfl⟩ := requeue_inv h
  · simp [State.unread, hm, Micro.held]
  · exact s.sb_suffix_unread
  · exact List.suffix_refl _

theorem validateCheck_unread {sup : Bool} {kind : DeviceKind} {fr : List Byte} {tr : Bool}
    (h : validateCheck sup kind fr tr s = .next t) : t.unread = s.sb := by
  obtain ⟨_, _, ⟨_, rfl⟩ | ⟨_, _, _, ⟨_, rfl⟩ | ⟨_, rfl⟩⟩⟩ := validateCheck_inv h
  · exact report_unread ..
  · exact report_unread ..
  · rfl

theorem decUnknown_unread {code : Byte} (h : exec (.decUnknown code) s = .next t) : t.unread = s.sb := by
  obtain ⟨_, _, _, _, rfl⟩ := decUnknown_inv h
  exact report_unread ..

/-- VALIDATE hands back the end of the frame it was given, and nothing else. -/
theorem validate_unread (h : exec .validate s = .next t) : t.unread <:+ s.unread := by
  obtain ⟨sup, fr, hm, ⟨_, rfl⟩ | ⟨code, _, ⟨_, hu⟩ | ⟨n, _, ⟨_, s1, hq, hs1⟩ | ⟨_, hc⟩⟩⟩⟩ |
    ⟨_, _, _, _, _, hc⟩ | ⟨_, rfl⟩ := validate_inv h
  · exact report_unread s .. ▸ s.sb_suffix_unread
  · exact decUnknown_unread hu ▸ s.sb_suffix_unread
  · have hcut : fr.drop n ++ s.sb <:+ s.unread := by
      rw [State.unread, hm]
      exact ⟨fr.take n, by simp [Micro.held, ← List.append_assoc]⟩
    have hs : s1.unread <:+ s.unread := (requeue_unread hq).trans hcut
    obtain ⟨_, rfl⟩ | ⟨_, hc⟩ := hs1
    · exact hs
    · exact validateCheck_unread hc ▸ s1.sb_suffix_unread.trans hs
  · exact validateCheck_unread hc ▸ s.sb_suffix_unread
  · exact validateCheck_unread hc ▸ s.sb_suffix_unread
  · exact List.suffix_refl _

/-- A micro-operation only ever shortens the bytes still unread from the front. -/
theorem exec_unread_of_not_command {i : Instr} (hi : isCommand i = false) (h : exec i s = .next t) :
    t.unread <:+ s.unread := by
  cases i with
  | nop | append | poll | reset => cases hi
  | extract => exact (extract_unread h).trans s.sb_suffix_unread
  | delim => exact (delim_unread h).trans s.sb_suffix_unread
  | validate => exact validate_unread h
  | requeue => exact requeue_unread h
  | decUnknown code => exact decUnknown_unread h ▸ s.sb_suffix_unread
  | decode =>
    obtain ⟨_, _, _, _, _, _, _, rfl⟩ | ⟨_, rfl⟩ := decode_inv h
    · exact s.sb_suffix_unread
    · exact List.suffix_refl _
  | emit =>
    obtain ⟨_, _, rfl⟩ | ⟨_, rfl⟩ := emit_inv h
    · exact s.sb_suffix_unread
    · exact List.suffix_refl _
  | decRain | decThermo | decBaro | decUv | decAnemo | decClock =>
    obtain ⟨_, _, _, _, _, _, _, rfl⟩ := routine_inv (by simp [isRoutine]) h
    exact s.sb_suffix_unread
  | reserved9 | reservedA | reservedB | reservedC | reservedD | reservedE | reservedF =>
    obtain ⟨_, rfl⟩ := reserved_inv (by simp [isReserved]) h
    exact List.suffix_refl _

theorem exists_drop_of_suffix {a b : List Byte} (h : a <:+ b) : ∃ d, a = b.drop d :=
  ⟨_, List.suffix_iff_eq_drop.1 h⟩

theorem delim_sb (h : exec .delim s = .next t) : ∃ f, t.sb = s.sb.drop f :=
  exists_drop_of_suffix (t.sb_suffix_unread.trans (delim_unread h))

theorem extract_sb (h : exec .extract s = .next t) : ∃ f, t.sb = s.sb.drop f :=
  exists_drop_of_suffix (t.sb_suffix_unread.trans (extract_unread h))

theorem requeue_sb (h : exec .requeue s = .next t) : s.sb <:+ t.sb := by
  obtain ⟨_, _, _, extra, _, ⟨_, rfl⟩ | ⟨_, _, rfl⟩⟩ | ⟨_, rfl⟩ := requeue_inv h
  · exact List.suffix_append extra s.sb
  · exact List.suffix_refl _
  · exact List.suffix_refl _

theorem validate_sb (h : exec .validate s = .next t) : s.sb <:+ t.sb := by
  obtain ⟨sup, fr, _, ⟨_, rfl⟩ | ⟨code, _, ⟨_, hu⟩ | ⟨n, _, ⟨_, s1, hq, hs1⟩ | ⟨_, hc⟩⟩⟩⟩ |
    ⟨_, _, _, _, _, hc⟩ | ⟨_, rfl⟩ := validate_inv h
  · simp
  · simp [decUnknown_sb hu]
  · have hs : s.sb <:+ s1.sb := requeue_sb (s := s.goto _) hq
    obtain ⟨_, rfl⟩ | ⟨_, hc⟩ := hs1
    · exact hs
    · exact validateCheck_sb hc ▸ hs
  · simp [validateCheck_sb hc]
  · simp [validateCheck_sb hc]
  · exact List.suffix_refl _

end Buffer

/-- Settles O43: every micro-operation leaves a suffix of the unread bytes, so the whole POLL does. -/
theorem pollConsumesFromTheFrontOnly : Obligations.PollConsumesFromTheFrontOnly := by
  intro s t h
  have hidle : s.micro = .idle := (poll_inv h).1
  have hsuffix : t.unread <:+ s.sb :=
    poll_keeps (P := fun a => a.unread <:+ s.sb)
      (fun _ _ _ hi ha hab => (exec_unread_of_not_command hi hab).trans ha)
      (fun _ => by simp [State.unread, hidle, Micro.held]) (List.suffix_refl _) h
  exact exists_drop_of_suffix (t.sb_suffix_unread.trans hsuffix)

/-- Settles O51, one lemma per way of writing SB. -/
theorem bufferIsWrittenInThreeWaysOnly : Obligations.BufferIsWrittenInThreeWaysOnly := by
  intro i s t h
  refine ⟨fun hi => exec_sb_of_not_writesSB hi h, ?_, ?_, ?_, ?_⟩
  · rintro rfl
    exact append_sb h
  · rintro (rfl | rfl)
    · exact extract_sb h
    · exact delim_sb h
  · rintro (rfl | rfl)
    · exact (requeue_sb h).imp fun _ he => he.symm
    · exact (validate_sb h).imp fun _ he => he.symm
  · rintro rfl
    obtain ⟨_, rfl⟩ := reset_inv h
    rfl

/-! ## Overflow -/

section Overflow

variable {s t : State}

/-- APPEND of a valid chunk (42_synchronizer.md R68): written where it fits, the overflow fault where it does not. -/
theorem append_of_valid {b : Byte} (hm : s.micro = .idle) (ho : s.ovfSet = false) (hl : 1 ≤ s.port.chunkLen.toNat)
    (hcap : s.port.chunkLen.toNat ≤ s.params.cap.toNat) (hb : s.port.ch[0]? = some b) (hn : 1 ≤ b.toNat)
    (hfit : b.toNat + 2 ≤ s.port.chunkLen.toNat) :
    exec .append s = .next
      (if s.fits (s.sb ++ slice s.port.ch 2 (b.toNat + 2))
        then ({ s with sb := s.sb ++ slice s.port.ch 2 (b.toNat + 2) } : State).respond .ok
        else s.setOvf.respond .faultOverflow) := by
  have hlen : ¬ (s.port.chunkLen.toNat > s.params.cap.toNat ∨ s.port.chunkLen.toNat < 1) := by omega
  have hpay : ¬ (b.toNat < 1 ∨ b.toNat + 2 > s.port.chunkLen.toNat) := by omega
  simp only [exec, execAppend, atPort_idle _ _ hm, ho, Bool.false_eq_true, if_false, if_neg hlen, byteAt_ok hb, ofRead_ok,
    if_neg hpay]
  cases hf : s.fits (s.sb ++ slice s.port.ch 2 (b.toNat + 2)) with
  | true => rw [State.writeSB_fits _ _ hf]; rfl
  | false => rw [State.writeSB_full _ _ hf]; rfl

theorem requeue_of_full {sup : Bool} {kind : DeviceKind} {fr extra : List Byte} (hm : s.micro = .requeue sup kind fr extra)
    (hf : s.fits (extra ++ s.sb) = false) : exec .requeue s = .next (s.setOvf.finish .faultOverflow false) := by
  simp only [exec, execRequeue, hm, State.writeSB_full _ _ hf]

/-- With OVF set APPEND does nothing (10_state.md R11). -/
theorem append_of_ovfSet (hm : s.micro = .idle) (ho : s.ovfSet = true) :
    exec .append s = .next (s.respond .faultOverflow) := by
  simp only [exec, execAppend, atPort_idle _ _ hm, ho, if_true]

theorem poll_of_ovfSet (hm : s.micro = .idle) (ho : s.ovfSet = true) :
    exec .poll s = .next (s.respond .faultOverflow) := by
  simp only [exec, execPoll, atPort_idle _ _ hm, ho, if_true]

theorem nop_of_idle (hm : s.micro = .idle) : exec .nop s = .next (s.respond .ok) := atPort_idle _ _ hm

theorem reset_of_idle (hm : s.micro = .idle) : exec .reset s = .next s.clear := atPort_idle _ _ hm

/-- A micro-operation's code or a reserved one at the port (45_pipeline.md R108). -/
theorem exec_decodeOp_refused (hm : s.micro = .idle) {op : BitVec 4} (hop : 4 ≤ op.toNat) :
    exec (decodeOp op) s = .next (s.respond .illegalCmd) := by
  have hill : illegal s = .next (s.respond .illegalCmd) := atPort_idle _ _ hm
  have hmem : decodeOp op ∈ ([.extract, .validate, .requeue, .decode, .emit, .reserved9, .reservedA, .reservedB,
      .reservedC, .reservedD, .reservedE, .reservedF] : List Instr) := by
    revert op; decide
  simp only [List.mem_cons, List.not_mem_nil, or_false] at hmem
  rcases hmem with h | h | h | h | h | h | h | h | h | h | h | h <;> rw [h, ← hill]
  · simp only [exec, execExtract, hm]
  · simp only [exec, execValidate, hm]
  · simp only [exec, execRequeue, hm]
  · simp only [exec, execDecode, hm]
  · simp only [exec, execEmit, hm]
  all_goals rfl

end Overflow

/-- Settles O8: the overflowing results, the commands under a set OVF, its stickiness, and the unbounded default. -/
theorem overflowIsStickyUntilReset : Obligations.OverflowIsStickyUntilReset := by
  refine ⟨?_, ?_, ?_, ?_, ?_⟩
  · intro s b hm ho hl hcap hb hn hfit hfull
    exact ⟨[], by rw [append_of_valid hm ho hl hcap hb hn hfit, hfull]; rfl⟩
  · intro s sup kind fr extra hm hfull
    exact ⟨s.phases, requeue_of_full hm hfull⟩
  · intro s hm ho
    refine ⟨⟨[], append_of_ovfSet hm ho⟩, ⟨[], poll_of_ovfSet hm ho⟩, ⟨_, nop_of_idle hm, rfl⟩,
      ⟨_, reset_of_idle hm, rfl, rfl⟩, fun op hop => ⟨[], exec_decodeOp_refused hm hop⟩⟩
  · intro i s t h hi ho
    exact (exec_keepsInputsAndOvf hi h).2 ho
  · intro s hc
    exact ⟨by simp [State.ovfSet, hc], fun q => by simp [State.fits, hc]⟩

/-! ## Widths of what the accessors and the decoders answer -/

section Widths

variable {q : List Byte} {pos o n v : Nat}

/-- A sequence of reads that has a value read a first one. -/
theorem bind_eq_ok {α β : Type} {x : Except ReadError α} {f : α → Except ReadError β} {b : β}
    (h : x >>= f = .ok b) : ∃ a, x = .ok a ∧ f a = .ok b := by
  cases x with
  | ok a => exact ⟨a, rfl, h⟩
  | error e => cases h

theorem byteAt_lt (h : byteAt q pos = .ok v) : v < 2 ^ 8 := by
  unfold byteAt at h
  split at h
  · cases h; exact byte_lt _
  · cases h

theorem bitsAt_lt (h : bitsAt q pos o n = .ok v) : v < 2 ^ n := by
  unfold bitsAt at h
  split at h
  · obtain ⟨b, _, h⟩ := bind_eq_ok h
    cases h
    exact Nat.mod_lt _ (by positivity)
  · cases h

theorem nibbleAt_lt (h : nibbleAt q pos o = .ok v) : v < 2 ^ 4 := by
  unfold nibbleAt at h
  split at h
  · obtain ⟨b, _, h⟩ := bind_eq_ok h
    cases h
    exact Nat.mod_lt _ (by decide)
  · obtain ⟨b, hb, h⟩ := bind_eq_ok h
    have : b < 2 ^ 8 := byteAt_lt hb
    cases h
    omega
  · cases h

theorem wordAt_lt (h : wordAt q pos = .ok v) : v < 2 ^ 16 := by
  obtain ⟨lo, hlo, h⟩ := bind_eq_ok h
  obtain ⟨hi, hhi, h⟩ := bind_eq_ok h
  have : lo < 2 ^ 8 := byteAt_lt hlo
  have : hi < 2 ^ 8 := byteAt_lt hhi
  cases h
  omega

theorem nibbleSum_lt (h : nibbleSum q pos o n = .ok v) : v < 16 ^ n := by
  induction n generalizing v with
  | zero => cases h; simp
  | succ j ih =>
    obtain ⟨w, hw, h⟩ := bind_eq_ok h
    obtain ⟨d, hd, h⟩ := bind_eq_ok h
    have hw' : w < 16 ^ j := ih hw
    have hd' : d < 16 := nibbleAt_lt hd
    cases h
    calc w + d * 16 ^ j < 16 ^ j + d * 16 ^ j := by omega
      _ = (d + 1) * 16 ^ j := by ring
      _ ≤ 16 * 16 ^ j := Nat.mul_le_mul_right _ hd'
      _ = 16 ^ (j + 1) := by ring

/-- Three nibbles make a 12-bit value (30_encoding.md R49). -/
theorem nibbleRun3_lt (h : nibbleRun q pos o 3 = .ok v) : v < 2 ^ 12 := by
  unfold nibbleRun at h
  split at h
  · exact nibbleSum_lt h
  · cases h

/-- A sign in front of a magnitude takes one bit more (44_decoder.md R86). -/
theorem signed_bounds (b : Bool) {m w : Nat} (h : m < w) : -(w : Int) ≤ signed b m ∧ signed b m < w := by
  cases b <;> simp [signed] <;> omega

end Widths

section Readings

variable {fr : List Byte}

theorem decodeRain_fits {r : RainReading} (h : decodeRain fr = .ok r) : (Reading.rain r).Fits := by
  obtain ⟨bat, hbat, h⟩ := bind_eq_ok h
  obtain ⟨rate, hrate, h⟩ := bind_eq_ok h
  obtain ⟨hour, hhour, h⟩ := bind_eq_ok h
  obtain ⟨day, hday, h⟩ := bind_eq_ok h
  obtain ⟨total, htotal, h⟩ := bind_eq_ok h
  obtain ⟨rMinute, hrMinute, h⟩ := bind_eq_ok h
  obtain ⟨rHour, hrHour, h⟩ := bind_eq_ok h
  obtain ⟨rDay, hrDay, h⟩ := bind_eq_ok h
  obtain ⟨rMonth, hrMonth, h⟩ := bind_eq_ok h
  obtain ⟨year, hyear, h⟩ := bind_eq_ok h
  have hy : Config.yearBase + year < 2 ^ 12 := by
    have := byteAt_lt hyear
    simp only [Config.yearBase]
    omega
  cases h
  exact ⟨nibbleAt_lt hbat, wordAt_lt hrate, wordAt_lt hhour, wordAt_lt hday, wordAt_lt htotal, byteAt_lt hrMinute,
    byteAt_lt hrHour, byteAt_lt hrDay, byteAt_lt hrMonth, hy⟩

theorem decodeHeat_fits {dewNeg : Bool} {o : Option HeatIndex} (h : decodeHeat fr dewNeg = .ok o) : HeatFits o := by
  obtain ⟨invalid, _, h⟩ := bind_eq_ok h
  split at h
  · obtain ⟨mag, hmag, h⟩ := bind_eq_ok h
    cases h
    exact ⟨nibbleRun3_lt hmag, signed_bounds dewNeg (nibbleRun3_lt hmag)⟩
  · cases h
    trivial

theorem decodeThermo_fits {r : ThermoReading} (h : decodeThermo fr = .ok r) : (Reading.thermo r).Fits := by
  obtain ⟨_, _, h⟩ := bind_eq_ok h
  obtain ⟨tempTrend, htt, h⟩ := bind_eq_ok h
  obtain ⟨humTrend, hht, h⟩ := bind_eq_ok h
  obtain ⟨sensor, hsen, h⟩ := bind_eq_ok h
  obtain ⟨tempSign, _, h⟩ := bind_eq_ok h
  obtain ⟨tempMag, htemp, h⟩ := bind_eq_ok h
  obtain ⟨humidity, hhum, h⟩ := bind_eq_ok h
  obtain ⟨dewSign, _, h⟩ := bind_eq_ok h
  obtain ⟨dewMag, hdew, h⟩ := bind_eq_ok h
  obtain ⟨heat, hheat, h⟩ := bind_eq_ok h
  obtain ⟨htempLo, htempHi⟩ := signed_bounds (neg tempSign) (nibbleRun3_lt htemp)
  obtain ⟨hdewLo, hdewHi⟩ := signed_bounds (neg dewSign) (nibbleRun3_lt hdew)
  cases h
  exact ⟨bitsAt_lt htt, bitsAt_lt hht, nibbleAt_lt hsen, nibbleRun3_lt htemp, htempLo, htempHi, byteAt_lt hhum,
    nibbleRun3_lt hdew, hdewLo, hdewHi, decodeHeat_fits hheat⟩

theorem decodeBaro_fits {r : BaroReading} (h : decodeBaro fr = .ok r) : (Reading.baro r).Fits := by
  obtain ⟨pAbs, habs, h⟩ := bind_eq_ok h
  obtain ⟨pRel, hrel, h⟩ := bind_eq_ok h
  obtain ⟨fc, hfc, h⟩ := bind_eq_ok h
  obtain ⟨prev, hprev, h⟩ := bind_eq_ok h
  cases h
  exact ⟨nibbleRun3_lt habs, nibbleRun3_lt hrel, nibbleAt_lt hfc, nibbleAt_lt hprev⟩

theorem decodeUv_fits {r : UvReading} (h : decodeUv fr = .ok r) : (Reading.uv r).Fits := by
  obtain ⟨bat, hbat, h⟩ := bind_eq_ok h
  obtain ⟨uv, huv, h⟩ := bind_eq_ok h
  cases h
  exact ⟨nibbleAt_lt hbat, byteAt_lt huv⟩

theorem decodeChill_fits {o : Option WindChill} (h : decodeChill fr = .ok o) : ChillFits o := by
  obtain ⟨na, _, h⟩ := bind_eq_ok h
  split at h
  · cases h
    trivial
  · obtain ⟨sign, _, h⟩ := bind_eq_ok h
    obtain ⟨mag, hmag, h⟩ := bind_eq_ok h
    cases h
    exact ⟨byteAt_lt hmag, signed_bounds (sign == 1) (byteAt_lt hmag)⟩

theorem decodeAnemo_fits {r : AnemoReading} (h : decodeAnemo fr = .ok r) : (Reading.anemo r).Fits := by
  obtain ⟨bat, hbat, h⟩ := bind_eq_ok h
  obtain ⟨dir, hdir, h⟩ := bind_eq_ok h
  obtain ⟨gust, hgust, h⟩ := bind_eq_ok h
  obtain ⟨low, hlow, h⟩ := bind_eq_ok h
  obtain ⟨high, hhigh, h⟩ := bind_eq_ok h
  obtain ⟨chill, hchill, h⟩ := bind_eq_ok h
  have hdeg : 225 * dir < 2 ^ 12 := by
    have := nibbleAt_lt hdir
    omega
  have havg : 16 * high + low / 16 < 2 ^ 12 := by
    have := byteAt_lt hlow
    have := byteAt_lt hhigh
    omega
  cases h
  exact ⟨nibbleAt_lt hbat, nibbleAt_lt hdir, hdeg, nibbleRun3_lt hgust, havg, decodeChill_fits hchill⟩

theorem decodeClock_fits {r : ClockReading} (h : decodeClock fr = .ok r) : (Reading.clock r).Fits := by
  obtain ⟨_, _, h⟩ := bind_eq_ok h
  obtain ⟨_, _, h⟩ := bind_eq_ok h
  obtain ⟨_, _, h⟩ := bind_eq_ok h
  obtain ⟨_, _, h⟩ := bind_eq_ok h
  obtain ⟨minute, hminute, h⟩ := bind_eq_ok h
  obtain ⟨hour, hhour, h⟩ := bind_eq_ok h
  obtain ⟨day, hday, h⟩ := bind_eq_ok h
  obtain ⟨month, hmonth, h⟩ := bind_eq_ok h
  obtain ⟨year, hyear, h⟩ := bind_eq_ok h
  obtain ⟨tz, htz, h⟩ := bind_eq_ok h
  have hy : Config.yearBase + year < 2 ^ 12 := by
    have := byteAt_lt hyear
    simp only [Config.yearBase]
    omega
  cases h
  exact ⟨byteAt_lt hminute, byteAt_lt hhour, byteAt_lt hday, byteAt_lt hmonth, hy, byteAt_lt htz⟩

theorem map_eq_ok {α : Type} {x : Except ReadError α} {tag : α → Reading} {rd : Reading}
    (h : x.map (fun r => some (tag r)) = .ok (some rd)) : ∃ r, x = .ok r ∧ rd = tag r := by
  cases x with
  | ok r => exact ⟨r, rfl, by cases h; rfl⟩
  | error e => cases h

/-- A reading a decode routine has answered keeps within the widths of the record table (45_pipeline.md R104). -/
theorem decodeRef_fits {kind : DeviceKind} {rd : Reading} (h : decodeRef kind fr = .ok (some rd)) : rd.Fits := by
  cases kind with
  | rainfall => obtain ⟨r, hr, rfl⟩ := map_eq_ok h; exact decodeRain_fits hr
  | thermohygrometer => obtain ⟨r, hr, rfl⟩ := map_eq_ok h; exact decodeThermo_fits hr
  | barometer => obtain ⟨r, hr, rfl⟩ := map_eq_ok h; exact decodeBaro_fits hr
  | uv => obtain ⟨r, hr, rfl⟩ := map_eq_ok h; exact decodeUv_fits hr
  | anemometer => obtain ⟨r, hr, rfl⟩ := map_eq_ok h; exact decodeAnemo_fits hr
  | clock => obtain ⟨r, hr, rfl⟩ := map_eq_ok h; exact decodeClock_fits hr
  | unknown => cases h

end Readings

/-! ## The invariant -/

section Invariant

variable {s t : State}

/-- The part of the invariant that does not speak of the command in progress (10_state.md R9, R11). -/
def Bounded (s : State) : Prop := s.fits s.sb = true ∧ (s.params.bufCap = none → s.ovf = false)

/-- A state in the middle of a POLL: within its bounds, the outputs clear. -/
def Running (s : State) : Prop := Bounded s ∧ s.out = none ∧ s.validPulse = false

theorem Inv.bounded (h : Inv s) : Bounded s := by
  obtain ⟨hfits, hovf, _⟩ := h
  exact ⟨hfits, hovf⟩

theorem Inv.microOk (h : Inv s) : s.micro.Ok s.params s.sb := by
  obtain ⟨_, _, hok, _⟩ := h
  exact hok

theorem Inv.running (h : Inv s) (hm : s.micro ≠ .idle) : Running s := by
  obtain ⟨hfits, hovf, _, _, hclear⟩ := h
  exact ⟨⟨hfits, hovf⟩, hclear hm⟩

theorem inv_of_idle (h : Bounded s) (hm : s.micro = .idle) (ho : OutputsOk s) : Inv s :=
  ⟨h.1, h.2, by simp [hm, Micro.Ok], fun _ => ho, fun hne => absurd hm hne⟩

theorem fits_of_length_le {q r : List Byte} (h : s.fits q = true) (hle : r.length ≤ q.length) : s.fits r = true := by
  unfold State.fits at h ⊢
  split at h
  · rfl
  · simp only [decide_eq_true_eq] at h ⊢
    omega

theorem fits_nil (s : State) : s.fits [] = true := by
  unfold State.fits
  split <;> simp

/-- OVF may be set where BUF_CAP is finite. -/
theorem Bounded.setOvf (h : Bounded s) (hcap : s.params.bufCap ≠ none) : Bounded s.setOvf := by
  obtain ⟨hf, _⟩ := h
  exact ⟨hf, fun hn => absurd hn hcap⟩

theorem Bounded.withSB {q : List Byte} (h : Bounded s) (hf : s.fits q = true) : Bounded { s with sb := q } := by
  obtain ⟨_, ho⟩ := h
  exact ⟨hf, ho⟩

theorem Running.setOvf (h : Running s) (hcap : s.params.bufCap ≠ none) : Running s.setOvf := by
  obtain ⟨hb, hout⟩ := h
  exact ⟨hb.setOvf hcap, hout⟩

theorem Running.drain (h : Running s) (f : Nat) : Running (s.drain f) := by
  obtain ⟨⟨hf, ho⟩, hout⟩ := h
  exact ⟨⟨fits_of_length_le hf (by simp), ho⟩, hout⟩

theorem Running.withSB {q : List Byte} (h : Running s) (hf : s.fits q = true) : Running { s with sb := q } := by
  obtain ⟨hb, hout⟩ := h
  exact ⟨hb.withSB hf, hout⟩

/-- The command goes on at a point whose transient values are as that point has them. -/
theorem Running.inv_goto {m : Micro} (h : Running s) (hm : m ≠ .idle) (hok : m.Ok s.params s.sb) : Inv (s.goto m) := by
  obtain ⟨⟨hf, ho⟩, hout⟩ := h
  exact ⟨hf, ho, hok, fun he => absurd he hm, fun _ => hout⟩

/-- Outputs without a record: any status but ST_READING's, with T for a checksum error only. -/
theorem outputsOk_of_no_record {code : StatusCode} {tr : Bool} (hs : s.status = statusWord code tr)
    (hp : s.validPulse = false) (ho : s.out = none) (hc : code ≠ .reading) (ht : tr = true → code = .errChecksum) :
    OutputsOk s :=
  ⟨⟨code, tr, hs, fun h => .inr (ht h), by simp [hp, hc]⟩, by simp [ho], by simp [hp]⟩

theorem Running.inv_finish {code : StatusCode} {tr : Bool} (h : Running s) (hc : code ≠ .reading)
    (ht : tr = true → code = .errChecksum) : Inv (s.finish code tr) := by
  obtain ⟨hb, hout, hp⟩ := h
  exact inv_of_idle hb rfl (outputsOk_of_no_record rfl hp hout hc ht)

theorem Bounded.inv_respond {code : StatusCode} (h : Bounded s) (hm : s.micro = .idle) (hc : code ≠ .reading) :
    Inv (s.respond code) :=
  inv_of_idle h hm (outputsOk_of_no_record rfl rfl rfl hc (by simp))

theorem inv_clear (s : State) : Inv s.clear :=
  inv_of_idle ⟨fits_nil s, fun _ => rfl⟩ rfl (outputsOk_of_no_record rfl rfl rfl (by decide) (by simp))

/-- Every validation error's status code is its own, so none is ST_READING. -/
theorem ValidationError.code_ne_reading (e : ValidationError) : e.code ≠ .reading := by
  cases e <;> simp [ValidationError.code]

/-- A reported error: T accompanies a checksum error only, and its Invalid record is one POLL may deliver. -/
theorem Running.inv_report {fr : List Byte} {tr : Bool} {e : ValidationError} (h : Running s) (sup : Bool)
    (hok : (e.record tr fr).Ok) : Inv (s.report sup fr tr e) := by
  cases sup with
  | true =>
    obtain ⟨_, htr, _⟩ := hok
    exact h.inv_finish e.code_ne_reading htr
  | false => exact h.inv_goto (by simp) hok

/-- The outputs EMIT leaves, for a record POLL may deliver (45_pipeline.md R103, R106). -/
theorem outputsOk_of_record {rec : OutRecord} (hr : rec.Ok) (hs : s.status = rec.status)
    (hp : s.validPulse = rec.pulse) (ho : s.out = some rec) : OutputsOk s := by
  refine ⟨?_, fun r h => ?_, by simp [ho]⟩
  · cases rec with
    | reading kind tr rd => exact ⟨.reading, tr, hs, fun _ => .inl rfl, by simp [hp, OutRecord.pulse]⟩
    | invalid err tr _ _ _ _ =>
      obtain ⟨herr, htr, _⟩ := hr
      refine ⟨err, tr, hs, fun h => .inr (htr h), ?_⟩
      rcases herr with rfl | rfl | rfl | rfl <;> simp [hp, OutRecord.pulse]
  · obtain rfl : rec = r := Option.some.inj (ho.symm.trans h)
    exact ⟨hr, hs⟩

/-! ### One lemma per instruction -/

theorem append_keeps_inv (hi : Inv s) (h : exec .append s = .next t) : Inv t := by
  obtain ⟨hm, ⟨c, hc, rfl⟩ | ⟨rfl, hcap⟩ | ⟨p, hp, rfl⟩⟩ := append_inv h
  · exact hi.bounded.inv_respond hm (by rcases hc with rfl | rfl <;> decide)
  · exact (hi.bounded.setOvf hcap).inv_respond hm (by decide)
  · exact (hi.bounded.withSB hp).inv_respond hm (by decide)

theorem delim_keeps_inv (hi : Inv s) (h : exec .delim s = .next t) : Inv t := by
  obtain ⟨sup, hm, hfind⟩ | ⟨sup, b, hm, hfind⟩ := delim_inv h
  · have hr : Running s := hi.running (by simp [hm])
    obtain ⟨_, rfl⟩ | ⟨i, hf, rfl⟩ := hfind
    · exact hr.inv_finish (by decide) (by simp)
    · obtain ⟨_, hocc, _⟩ := findDelim_eq_some hf
      have hlt : i + 1 < s.sb.length := hocc.lt
      exact hr.inv_goto (by simp) ⟨by omega, by omega⟩
  · have hr : Running s := hi.running (by simp [hm])
    obtain ⟨_, rfl⟩ | ⟨f, hf, ⟨_, rfl⟩ | ⟨hne, rfl⟩⟩ := hfind
    · exact hr.inv_finish (by decide) (by simp)
    · exact (hr.drain f).inv_finish (by decide) (by simp)
    · obtain ⟨hle, hocc, _⟩ := findDelim_eq_some hf
      have hlt : f + 1 < s.sb.length := hocc.lt
      have hlen : 1 ≤ (slice s.sb b f).length := by
        simp only [slice, List.length_drop, List.length_take]
        omega
      exact (hr.drain f).inv_goto (by simp) hlen

theorem extract_keeps_inv (hi : Inv s) (h : exec .extract s = .next t) : Inv t := by
  obtain ⟨sup, s1, hm, h1, hs1⟩ | ⟨hm, rfl⟩ := extract_inv h
  · have hr : Running s := hi.running (by simp [hm])
    have hseek : Inv (s.goto (.seekStart sup)) := hr.inv_goto (by simp) trivial
    have hi1 : Inv s1 := delim_keeps_inv hseek h1
    obtain ⟨_, rfl⟩ | ⟨_, h2⟩ := hs1
    · exact hi1
    · exact delim_keeps_inv hi1 h2
  · exact hi.bounded.inv_respond hm (by decide)

theorem requeue_keeps_inv (hi : Inv s) (h : exec .requeue s = .next t) : Inv t := by
  obtain ⟨sup, kind, fr, extra, hm, hs⟩ | ⟨hm, rfl⟩ := requeue_inv h
  · have hr : Running s := hi.running (by simp [hm])
    have hok : (Micro.requeue sup kind fr extra).Ok s.params s.sb := hm ▸ hi.microOk
    obtain ⟨hv, _⟩ := hok
    obtain ⟨hf, rfl⟩ | ⟨hcap, _, rfl⟩ := hs
    · have h6 : 6 ≤ fr.length := (expectedLength_bounds hv).1
      exact (hr.withSB hf).inv_goto (by simp) ⟨by omega, fr.length, hv, le_rfl, fun _ => rfl⟩
    · exact (hr.setOvf hcap).inv_finish (by decide) (by simp)
  · exact hi.bounded.inv_respond hm (by decide)

theorem decUnknown_keeps_inv {code : Byte} (hi : Inv s) (h : exec (.decUnknown code) s = .next t) : Inv t := by
  obtain ⟨sup, fr, hm, _, rfl⟩ := decUnknown_inv h
  have hok : (Micro.unknown sup fr).Ok s.params s.sb := hm ▸ hi.microOk
  obtain ⟨hlen, _⟩ := hok
  have hcode : code.toNat < 2 ^ 16 := (byte_lt code).trans (by decide)
  exact (hi.running (by simp [hm])).inv_report sup
    ⟨.inr (.inl rfl), by simp, hcode, Nat.two_pow_pos 16, rfl, by omega⟩

/-- Steps 4 and 5 of VALIDATE, at their point. -/
theorem validateCheck_keeps_inv {sup : Bool} {kind : DeviceKind} {fr : List Byte} {tr : Bool} (hi : Inv s)
    (hm : s.micro = .check sup kind fr tr) (h : validateCheck sup kind fr tr s = .next t) : Inv t := by
  have hr : Running s := hi.running (by simp [hm])
  have hok : (Micro.check sup kind fr tr).Ok s.params s.sb := hm ▸ hi.microOk
  obtain ⟨h2, n, hn, hle, htr⟩ := hok
  have h17 : n ≤ 17 := (expectedLength_bounds hn).2
  obtain ⟨n', hn', hcase⟩ := validateCheck_inv h
  obtain rfl : n = n' := Option.some.inj (hn.symm.trans hn')
  obtain ⟨hlt, rfl⟩ | ⟨hge, want, hw, ⟨_, rfl⟩ | ⟨_, rfl⟩⟩ := hcase
  · exact hr.inv_report sup
      ⟨.inr (.inr (.inl rfl)), fun ht => absurd (htr ht) (by omega),
        (show fr.length < 2 ^ 16 by omega), (show n < 2 ^ 16 by omega), rfl, by omega⟩
  · have hwant : want < 2 ^ 16 := wordAt_lt hw
    have hsum : actualSum fr ≤ 255 * (fr.take (fr.length - 2)).length := byteSum_le _
    have hactual : actualSum fr < 2 ^ 16 := by
      rw [List.length_take] at hsum
      omega
    exact hr.inv_report sup ⟨.inr (.inr (.inr rfl)), fun _ => rfl, hwant, hactual, rfl, by omega⟩
  · have hv : Validated kind fr := by rw [Validated, hn]; congr 1; omega
    exact hr.inv_goto (by simp) hv

theorem validate_keeps_inv (hi : Inv s) (h : exec .validate s = .next t) : Inv t := by
  obtain ⟨sup, fr, hm, hcase⟩ | ⟨sup, kind, fr, tr, hm, hc⟩ | ⟨hm, rfl⟩ := validate_inv h
  · have hr : Running s := hi.running (by simp [hm])
    have hlen : 1 ≤ fr.length := by
      have hok : (Micro.validate sup fr).Ok s.params s.sb := hm ▸ hi.microOk
      exact hok
    obtain ⟨hrunt, rfl⟩ | ⟨code, hcode, hkind⟩ := hcase
    · have hle : fr.length ≤ 1 := List.getElem?_eq_none_iff.1 hrunt
      exact hr.inv_report sup ⟨.inl rfl, by simp, (show fr.length < 2 ^ 16 by omega), Nat.two_pow_pos 16, rfl, hlen⟩
    · have h2 : 1 < fr.length := (List.getElem?_eq_some_iff.1 hcode).1
      obtain ⟨hnone, hu⟩ | ⟨n, hn, ⟨hlt, s1, hq, hs1⟩ | ⟨hle, hc⟩⟩ := hkind
      · have hunk : (fr[1]?).map (lookup s.params) = some .unknown := by
          rw [hcode, Option.map_some, expectedLength_eq_none hnone]
        have hiu : Inv (s.goto (.unknown sup fr)) := hr.inv_goto (by simp) ⟨h2, hunk⟩
        exact decUnknown_keeps_inv hiu hu
      · have hv : Validated (lookup s.params code) (fr.take n) := by
          rw [Validated, hn, List.length_take, Nat.min_eq_left hlt.le]
        have hextra : 1 ≤ (fr.drop n).length := by rw [List.length_drop]; omega
        have hiq : Inv (s.goto (.requeue sup (lookup s.params code) (fr.take n) (fr.drop n))) :=
          hr.inv_goto (by simp) ⟨hv, hextra⟩
        have hi1 : Inv s1 := requeue_keeps_inv hiq hq
        obtain ⟨_, rfl⟩ | ⟨hm1, hc⟩ := hs1
        · exact hi1
        · exact validateCheck_keeps_inv hi1 hm1 hc
      · have hic : Inv (s.goto (.check sup (lookup s.params code) fr false)) :=
          hr.inv_goto (by simp) ⟨h2, n, hn, hle, by simp⟩
        exact validateCheck_keeps_inv hic rfl hc
  · exact validateCheck_keeps_inv hi hm hc
  · exact hi.bounded.inv_respond hm (by decide)

theorem Running.inv_goto_reading {kind : DeviceKind} {fr : List Byte} {rd : Reading} (h : Running s) (tr : Bool)
    (hd : decodeRef kind fr = .ok (some rd)) (hk : rd.kind = kind) : Inv (s.goto (.emit (.reading kind tr rd))) :=
  h.inv_goto (by simp) ⟨hk, decodeRef_fits hd⟩

theorem routine_keeps_inv {i : Instr} (hr : isRoutine i) (hi : Inv s) (h : exec i s = .next t) : Inv t := by
  obtain ⟨kind, fr, tr, rd, hm, hd, hk, rfl⟩ := routine_inv hr h
  exact (hi.running (by simp [hm])).inv_goto_reading tr hd hk

theorem decode_keeps_inv (hi : Inv s) (h : exec .decode s = .next t) : Inv t := by
  obtain ⟨kind, fr, tr, rd, hm, hd, hk, rfl⟩ | ⟨hm, rfl⟩ := decode_inv h
  · have hr : Running (s.goto (.routine kind fr tr)) := hi.running (by simp [hm])
    exact hr.inv_goto_reading tr hd hk
  · exact hi.bounded.inv_respond hm (by decide)

theorem emit_keeps_inv (hi : Inv s) (h : exec .emit s = .next t) : Inv t := by
  obtain ⟨rec, hm, rfl⟩ | ⟨hm, rfl⟩ := emit_inv h
  · have hok : (Micro.emit rec).Ok s.params s.sb := hm ▸ hi.microOk
    exact inv_of_idle hi.bounded rfl (outputsOk_of_record hok rfl rfl rfl)
  · exact hi.bounded.inv_respond hm (by decide)

/-- Every micro-operation and every refused code keeps the invariant, wherever the block stands. -/
theorem exec_keeps_inv_of_not_command {i : Instr} (hc : isCommand i = false) (hi : Inv s) (h : exec i s = .next t) :
    Inv t := by
  cases i with
  | nop | append | poll | reset => cases hc
  | extract => exact extract_keeps_inv hi h
  | delim => exact delim_keeps_inv hi h
  | validate => exact validate_keeps_inv hi h
  | requeue => exact requeue_keeps_inv hi h
  | decUnknown code => exact decUnknown_keeps_inv hi h
  | decode => exact decode_keeps_inv hi h
  | emit => exact emit_keeps_inv hi h
  | decRain | decThermo | decBaro | decUv | decAnemo | decClock => exact routine_keeps_inv (by simp [isRoutine]) hi h
  | reserved9 | reservedA | reservedB | reservedC | reservedD | reservedE | reservedF =>
    obtain ⟨hm, rfl⟩ := reserved_inv (by simp [isReserved]) h
    exact hi.bounded.inv_respond hm (by decide)

theorem poll_keeps_inv (hi : Inv s) (h : exec .poll s = .next t) : Inv t := by
  have hm : s.micro = .idle := (poll_inv h).1
  obtain ⟨hfits, hovf⟩ := hi.bounded
  have hstart : Inv s.startPoll := ⟨hfits, hovf, trivial, by simp, fun _ => ⟨rfl, rfl⟩⟩
  exact poll_keeps (fun _ _ _ hc ha hab => exec_keeps_inv_of_not_command hc ha hab)
    (fun _ => hi.bounded.inv_respond hm (by decide)) hstart h

/-- Every instruction keeps the invariant: the micro-operations by themselves, a POLL as a run of them. -/
theorem exec_keeps_inv {i : Instr} (hi : Inv s) (h : exec i s = .next t) : Inv t := by
  cases hc : isCommand i with
  | false => exact exec_keeps_inv_of_not_command hc hi h
  | true =>
    cases i with
    | nop =>
      obtain ⟨hm, rfl⟩ := nop_inv h
      exact hi.bounded.inv_respond hm (by decide)
    | append => exact append_keeps_inv hi h
    | poll => exact poll_keeps_inv hi h
    | reset =>
      obtain ⟨_, rfl⟩ := reset_inv h
      exact inv_clear s
    | _ => cases hc

/-- Pins and coming transactions are no part of the invariant. -/
theorem Inv.present (h : Inv s) (p : Pins) (rest : List Pins) : Inv (s.present p rest) := h

/-- What a step can be: an instruction performed, the idle block left as it is, or the `rst` pin. -/
theorem step_inv (h : step s = .next t) :
    (∃ i, s.current = some i ∧ exec i s = .next t) ∨
    s.micro = .idle ∧
      (s.pending = [] ∧ t = s ∨
        ∃ p rest, s.pending = p :: rest ∧
          (p.rst = true ∧ t = (s.present p rest).clear ∨
            p.rst = false ∧ exec (decodeOp p.op) (s.present p rest) = .next t)) := by
  unfold step at h
  split at h
  · exact .inl ⟨_, ‹_›, h⟩
  · rename_i hc
    refine .inr ⟨current_eq_none.1 hc, ?_⟩
    split at h
    · cases h
      exact .inl ⟨‹_›, rfl⟩
    · rename_i p rest hp
      refine .inr ⟨p, rest, hp, ?_⟩
      split at h
      · cases h
        exact .inl ⟨‹_›, rfl⟩
      · exact .inr ⟨by simp_all, h⟩

end Invariant

/-- Settles O53: each of the four things a step can be keeps the invariant. -/
theorem stepKeepsTheInvariant : Obligations.StepKeepsTheInvariant := by
  intro s t hi h
  obtain ⟨i, _, h⟩ | ⟨_, ⟨_, rfl⟩ | ⟨p, rest, _, ⟨_, rfl⟩ | ⟨_, h⟩⟩⟩ := step_inv h
  · exact exec_keeps_inv hi h
  · exact hi
  · exact inv_clear _
  · exact exec_keeps_inv (hi.present p rest) h

/-- Settles O4: each value of the reset table is the field's value in State.reset. -/
theorem resetStateIsTheSpecsInitialState : Obligations.ResetStateIsTheSpecsInitialState :=
  ⟨rfl, rfl, rfl, rfl, rfl, rfl, rfl⟩

/-- Settles O52: State.reset is what reset leaves of any state, and that meets the invariant. -/
theorem resetMeetsTheInvariant : Obligations.ResetMeetsTheInvariant := inv_clear State.reset

end Sys2Proof.Machine

/-! PROOFS of the statements about the block's memory (20_memory.md): runs of nibbles against bytes and words, and the atomicity of
commands. A POLL ends because every micro-operation brings the command nearer to its end (`exec_remaining_le`). -/

namespace Sys2Proof.Machine

/-! ## Runs of nibbles -/

section NibbleRuns

variable {q : List Byte} {p : Nat} {b c : Byte}

/-- One more nibble of a run is one more digit to base 16 (40_bitbuffer.md R60). -/
theorem nibbleRun_succ {o j v n : Nat} (ho : o ≤ 1) (hv : nibbleRun q p o j = .ok v)
    (hn : nibbleAt q (p + (o + j) / 2) ((o + j) % 2) = .ok n) : nibbleRun q p o (j + 1) = .ok (v + n * 16 ^ j) := by
  rw [nibbleRun, if_pos ho] at hv ⊢
  simp [nibbleSum, hv, hn, bind, Except.bind]

theorem nibbleRun_zero {o : Nat} (ho : o ≤ 1) : nibbleRun q p o 0 = .ok 0 := by rw [nibbleRun, if_pos ho, nibbleSum]

theorem nibbleRun_one {o n : Nat} (ho : o ≤ 1) (hn : nibbleAt q p o = .ok n) : nibbleRun q p o 1 = .ok n := by
  have hpos : p + (o + 0) / 2 = p := by omega
  have hoff : (o + 0) % 2 = o := by omega
  simpa using nibbleRun_succ ho (nibbleRun_zero ho) (by rwa [hpos, hoff])

/-- Two nibbles from a low nibble are the byte (20_memory.md R24). -/
theorem nibbleRun_low2 (hb : q[p]? = some b) : nibbleRun q p 0 2 = .ok b.toNat := by
  rw [nibbleRun_succ zero_le_one (nibbleRun_one zero_le_one (nibbleAt_low hb)) (nibbleAt_high hb)]
  congr 1
  omega

/-- The fourth nibble is the high one of the byte whose low one ends a run of three. -/
theorem nibbleRun_low4 (hb : q[p]? = some b) (hc : q[p + 1]? = some c) :
    nibbleRun q p 0 4 = .ok (b.toNat + 256 * c.toNat) := by
  rw [nibbleRun_succ zero_le_one (nibbleRun_low3 hb hc) (nibbleAt_high hc)]
  congr 1
  omega

/-- Three nibbles from a high nibble (30_encoding.md R49). -/
theorem nibbleRun_high3 (hb : q[p]? = some b) (hc : q[p + 1]? = some c) :
    nibbleRun q p 1 3 = .ok (b.toNat / 16 + 16 * c.toNat) := by
  have hone : nibbleRun q p 1 1 = .ok (b.toNat / 16) := nibbleRun_one le_rfl (nibbleAt_high hb)
  rw [nibbleRun_succ le_rfl (nibbleRun_succ le_rfl hone (nibbleAt_low hc)) (nibbleAt_high hc)]
  congr 1
  omega

end NibbleRuns

/-- Settles O36: each run is computed nibble by nibble, low nibble first. -/
theorem nibbleRunsAreLowNibbleFirst : Obligations.NibbleRunsAreLowNibbleFirst := fun _ _ _ _ hb hc =>
  ⟨(nibbleRun_low2 hb).trans (byteAt_ok hb).symm, (nibbleRun_low4 hb hc).trans (wordAt_ok hb hc).symm,
    nibbleRun_low3 hb hc, nibbleRun_high3 hb hc⟩

/-! ## Atomicity of commands -/

section Atomicity

variable {s t : State}

/-- A bound on the instructions a command still has to perform from a point (46_laws.md R151): from EXTRACT the four
micro-operations of a POLL, between commands none. -/
def Micro.remaining : Micro → Nat
  | .idle => 0
  | .emit _ => 1
  | .routine _ _ _ | .decode _ _ _ | .unknown _ _ => 2
  | .check _ _ _ _ | .validate _ _ => 3
  | .requeue _ _ _ _ | .seekEnd _ _ | .extract _ => 4
  | .seekStart _ => 5

theorem Micro.remaining_eq_zero {m : Micro} : m.remaining = 0 ↔ m = .idle := by cases m <;> simp [Micro.remaining]

theorem report_remaining_le (s : State) (sup : Bool) (fr : List Byte) (tr : Bool) (e : ValidationError) :
    (s.report sup fr tr e).micro.remaining ≤ 1 := by
  cases sup with
  | true => exact zero_le_one
  | false => exact le_rfl

theorem delim_remaining_le (h : exec .delim s = .next t) : t.micro.remaining ≤ s.micro.remaining - 1 := by
  obtain ⟨_, hm, ⟨_, rfl⟩ | ⟨_, _, rfl⟩⟩ | ⟨_, _, hm, ⟨_, rfl⟩ | ⟨_, _, ⟨_, rfl⟩ | ⟨_, rfl⟩⟩⟩ := delim_inv h <;>
    simp [hm, Micro.remaining]

theorem extract_remaining_le (h : exec .extract s = .next t) : t.micro.remaining ≤ s.micro.remaining - 1 := by
  obtain ⟨_, s1, hm, _, ⟨hm1, rfl⟩ | ⟨⟨_, hm1⟩, h2⟩⟩ | ⟨hm, rfl⟩ := extract_inv h
  · simp [hm1, Micro.remaining]
  · have hle : t.micro.remaining ≤ s1.micro.remaining - 1 := delim_remaining_le h2
    simpa [hm, hm1, Micro.remaining] using hle
  · simp [hm, Micro.remaining]

theorem requeue_remaining_le (h : exec .requeue s = .next t) : t.micro.remaining ≤ s.micro.remaining - 1 := by
  obtain ⟨_, _, _, _, hm, ⟨_, rfl⟩ | ⟨_, _, rfl⟩⟩ | ⟨hm, rfl⟩ := requeue_inv h <;> simp [hm, Micro.remaining]

theorem decUnknown_remaining_le {code : Byte} (h : exec (.decUnknown code) s = .next t) :
    t.micro.remaining ≤ s.micro.remaining - 1 := by
  obtain ⟨sup, fr, hm, _, rfl⟩ := decUnknown_inv h
  simpa [hm, Micro.remaining] using report_remaining_le s sup fr false (.unknownDevice code.toNat)

theorem validateCheck_remaining_le {sup : Bool} {kind : DeviceKind} {fr : List Byte} {tr : Bool}
    (h : validateCheck sup kind fr tr s = .next t) : t.micro.remaining ≤ 2 := by
  obtain ⟨_, _, ⟨_, rfl⟩ | ⟨_, _, _, ⟨_, rfl⟩ | ⟨_, rfl⟩⟩⟩ := validateCheck_inv h
  · exact (report_remaining_le ..).trans one_le_two
  · exact (report_remaining_le ..).trans one_le_two
  · exact le_rfl

theorem validate_remaining_le (h : exec .validate s = .next t) : t.micro.remaining ≤ s.micro.remaining - 1 := by
  obtain ⟨sup, fr, hm, hcase⟩ | ⟨_, _, _, _, hm, hc⟩ | ⟨hm, rfl⟩ := validate_inv h
  · rw [hm]
    obtain ⟨_, rfl⟩ | ⟨code, _, ⟨_, hu⟩ | ⟨n, _, ⟨_, s1, _, ⟨hm1, rfl⟩ | ⟨_, hc⟩⟩ | ⟨_, hc⟩⟩⟩ := hcase
    · exact (report_remaining_le ..).trans one_le_two
    · exact (decUnknown_remaining_le hu).trans one_le_two
    · simp [hm1, Micro.remaining]
    · exact validateCheck_remaining_le hc
    · exact validateCheck_remaining_le hc
  · rw [hm]
    exact validateCheck_remaining_le hc
  · simp [hm, Micro.remaining]

/-- Every micro-operation brings the command nearer to its end, and between commands none begins one. -/
theorem exec_remaining_le {i : Instr} (hi : isCommand i = false) (h : exec i s = .next t) :
    t.micro.remaining ≤ s.micro.remaining - 1 := by
  cases i with
  | nop | append | poll | reset => cases hi
  | extract => exact extract_remaining_le h
  | delim => exact delim_remaining_le h
  | validate => exact validate_remaining_le h
  | requeue => exact requeue_remaining_le h
  | decUnknown code => exact decUnknown_remaining_le h
  | decode => obtain ⟨_, _, _, _, hm, _, _, rfl⟩ | ⟨hm, rfl⟩ := decode_inv h <;> simp [hm, Micro.remaining]
  | emit => obtain ⟨_, hm, rfl⟩ | ⟨hm, rfl⟩ := emit_inv h <;> simp [hm, Micro.remaining]
  | decRain | decThermo | decBaro | decUv | decAnemo | decClock =>
    obtain ⟨_, _, _, _, hm, _, _, rfl⟩ := routine_inv (by simp [isRoutine]) h
    simp [hm, Micro.remaining]
  | reserved9 | reservedA | reservedB | reservedC | reservedD | reservedE | reservedF =>
    obtain ⟨hm, rfl⟩ := reserved_inv (by simp [isReserved]) h
    simp [hm, Micro.remaining]

/-- In the middle of a command a run of micro-operations performs the one the command stands at. -/
theorem runMicro_succ (n : Nat) (hm : s.micro ≠ .idle) : runMicro (n + 1) s = andThen (microStep s) (runMicro n) := by
  rw [runMicro]
  split
  · exact absurd ‹_› hm
  · rfl

/-- A run of micro-operations with as many as remain ends the command. -/
theorem runMicro_ends : ∀ (n : Nat) {a b : State}, a.micro.remaining ≤ n → runMicro n a = .next b → b.micro = .idle
  | 0, a, b, ha, h => by
    cases h
    exact Micro.remaining_eq_zero.1 (Nat.le_zero.1 ha)
  | n + 1, a, b, ha, h => by
    cases hc : a.current with
    | none =>
      have hidle : a.micro = .idle := current_eq_none.1 hc
      rw [runMicro_idle hidle] at h
      cases h
      exact hidle
    | some i =>
      have hne : a.micro ≠ .idle := fun he => by simp [current_eq_none.2 he] at hc
      obtain ⟨c, hac, hcb⟩ := andThen_eq_next (runMicro_succ n hne ▸ h)
      have hlt : c.micro.remaining ≤ a.micro.remaining - 1 :=
        exec_remaining_le (current_not_command hc) (microStep_eq hc ▸ hac)
      exact runMicro_ends n (by omega) hcb

/-- POLL runs to completion (20_memory.md R30). -/
theorem poll_ends (h : exec .poll s = .next t) : t.micro = .idle := by
  obtain ⟨hm, ⟨_, rfl⟩ | ⟨_, hrun⟩⟩ := poll_inv h
  · exact hm
  · exact runMicro_ends 4 le_rfl hrun

/-- No instruction performed between commands leaves a command in progress. -/
theorem exec_keeps_idle {i : Instr} (hm : s.micro = .idle) (h : exec i s = .next t) : t.micro = .idle := by
  cases hi : isCommand i with
  | false =>
    have hle : t.micro.remaining ≤ s.micro.remaining - 1 := exec_remaining_le hi h
    rw [hm] at hle
    exact Micro.remaining_eq_zero.1 (Nat.le_zero.1 hle)
  | true =>
    cases i with
    | nop =>
      obtain ⟨_, rfl⟩ := nop_inv h
      exact hm
    | append => obtain ⟨_, ⟨_, _, rfl⟩ | ⟨rfl, _⟩ | ⟨_, _, rfl⟩⟩ := append_inv h <;> exact hm
    | poll => exact poll_ends h
    | reset =>
      obtain ⟨_, rfl⟩ := reset_inv h
      rfl
    | _ => cases hi

end Atomicity

/-- Settles O49: between commands a step does nothing, resets the block, or performs one command to its end. -/
theorem commandsAreAtomic : Obligations.CommandsAreAtomic := by
  intro s t hm h
  obtain ⟨i, hc, _⟩ | ⟨_, ⟨_, rfl⟩ | ⟨p, rest, _, ⟨_, rfl⟩ | ⟨_, he⟩⟩⟩ := step_inv h
  · simp [current_eq_none.2 hm] at hc
  · exact hm
  · rfl
  · exact exec_keeps_idle (s := s.present p rest) hm he

end Sys2Proof.Machine

/-! PROOFS of the statements about the encodings (30_encoding.md): the decoder and the encoder, the frame between two delimiters,
and the bits a decoder reads. Decoder and encoder meet in the three maps op code, delimiter and device code, so each
round trip is one fact per map. -/

namespace Sys2Proof.Machine

/-! ## The decoder and the encoder, map by map -/

section Encodings

variable {p : Params}

/-- A command byte with nothing above op[3:0] decodes as its op code (30_encoding.md R37). -/
theorem decode_command (op : BitVec 4) (rest : List Byte) :
    decode p .command (op.setWidth 8 :: rest) = .ok (decodeOp op, rest) := by
  have hlt : (op.setWidth 8).toNat < 16 := by rw [BitVec.toNat_setWidth]; omega
  have hop : (op.setWidth 8).setWidth 4 = op := by ext; simp
  simp only [decode, if_pos hlt, hop]

theorem decode_stream (rest : List Byte) : decode p .stream (0xFF :: 0xFF :: rest) = .ok (.delim, rest) := rfl

theorem decode_frame (code : Byte) (rest : List Byte) : decode p .frame (code :: rest) = .ok (decodeCode p code, rest) := rfl

/-- The op code map backwards (30_encoding.md R38). -/
theorem encode_decodeOp (op : BitVec 4) : encode p (decodeOp op) = (.command, [op.setWidth 8]) := by
  obtain ⟨n, hn⟩ := op
  interval_cases n <;> rfl

/-- A code that looks up a kind is the word of that kind's routine (30_encoding.md R42, 41_registry.md R64). -/
theorem encode_decodeCode (code : Byte) : encode p (decodeCode p code) = (.frame, [code]) := by
  unfold decodeCode lookup
  split_ifs <;> simp_all [routineOf, encode]

theorem wellFormed_decodeOp (op : BitVec 4) : (decodeOp op).wellFormed p = true := by
  obtain ⟨n, hn⟩ := op
  interval_cases n <;> rfl

theorem wellFormed_decodeCode (code : Byte) : (decodeCode p code).wellFormed p = true := by
  unfold decodeCode
  cases hk : lookup p code <;> simp [routineOf, Instr.wellFormed, hk]

/-- Distinct codes are looked up as the kinds the registry lists them for (92 D10). -/
theorem lookup_registryCodes (h : ParamsOk p) :
    (registryCodes p).map (lookup p) = [.rainfall, .thermohygrometer, .barometer, .uv, .anemometer, .clock] := by
  have hne : (registryCodes p).Pairwise fun a b => b ≠ a := h.imp Ne.symm
  simp only [registryCodes, List.pairwise_cons, List.mem_cons, List.not_mem_nil, or_false, forall_eq_or_imp, forall_eq] at hne
  simp [registryCodes, lookup, hne]

/-- Every well-formed instruction is what one of the three maps gives: an op code, the delimiter, or a device code. -/
theorem wellFormed_cases {i : Instr} (h : ParamsOk p) (hw : i.wellFormed p = true) :
    (∃ op, i = decodeOp op) ∨ i = .delim ∨ ∃ code, i = decodeCode p code := by
  have hkinds := lookup_registryCodes h
  simp only [registryCodes, List.map_cons, List.map_nil, List.cons.injEq, and_true] at hkinds
  obtain ⟨hrain, hthermo, hbaro, huv, hanemo, hclock⟩ := hkinds
  cases i with
  | nop => exact .inl ⟨0, rfl⟩
  | append => exact .inl ⟨1, rfl⟩
  | poll => exact .inl ⟨2, rfl⟩
  | reset => exact .inl ⟨3, rfl⟩
  | extract => exact .inl ⟨4, rfl⟩
  | validate => exact .inl ⟨5, rfl⟩
  | requeue => exact .inl ⟨6, rfl⟩
  | decode => exact .inl ⟨7, rfl⟩
  | emit => exact .inl ⟨8, rfl⟩
  | reserved9 => exact .inl ⟨9, rfl⟩
  | reservedA => exact .inl ⟨10, rfl⟩
  | reservedB => exact .inl ⟨11, rfl⟩
  | reservedC => exact .inl ⟨12, rfl⟩
  | reservedD => exact .inl ⟨13, rfl⟩
  | reservedE => exact .inl ⟨14, rfl⟩
  | reservedF => exact .inl ⟨15, rfl⟩
  | delim => exact .inr (.inl rfl)
  | decRain => exact .inr (.inr ⟨p.codeRain, by rw [decodeCode, hrain, routineOf]⟩)
  | decThermo => exact .inr (.inr ⟨p.codeThermo, by rw [decodeCode, hthermo, routineOf]⟩)
  | decBaro => exact .inr (.inr ⟨Config.codeBaro, by rw [decodeCode, hbaro, routineOf]⟩)
  | decUv => exact .inr (.inr ⟨Config.codeUv, by rw [decodeCode, huv, routineOf]⟩)
  | decAnemo => exact .inr (.inr ⟨Config.codeAnemo, by rw [decodeCode, hanemo, routineOf]⟩)
  | decClock => exact .inr (.inr ⟨Config.codeClock, by rw [decodeCode, hclock, routineOf]⟩)
  | decUnknown code =>
    have hunknown : lookup p code = .unknown := by simpa [Instr.wellFormed] using hw
    exact .inr (.inr ⟨code, by rw [decodeCode, hunknown, routineOf]⟩)

/-- Everything an answer of the decoder can be: a word of its space, and what that space's map gives for it. -/
theorem decode_eq_ok {sp : Space} {bytes rest : List Byte} {i : Instr} (h : decode p sp bytes = .ok (i, rest)) :
    (∃ op : BitVec 4, sp = .command ∧ bytes = op.setWidth 8 :: rest ∧ i = decodeOp op) ∨
    (sp = .stream ∧ bytes = 0xFF :: 0xFF :: rest ∧ i = .delim) ∨
    ∃ code, sp = .frame ∧ bytes = code :: rest ∧ i = decodeCode p code := by
  unfold decode at h
  split at h
  · split at h
    · rename_i b _ hlt
      have hb : (b.setWidth 4).setWidth 8 = b := BitVec.eq_of_toNat_eq (by simp only [BitVec.toNat_setWidth]; omega)
      cases h
      exact .inl ⟨b.setWidth 4, rfl, by rw [hb], rfl⟩
    · cases h
  · split at h
    · rename_i hd
      obtain ⟨rfl, rfl⟩ := (isDelim_iff _ _).1 hd
      cases h
      exact .inr (.inl ⟨rfl, rfl, rfl⟩)
    · cases h
  · cases h
    exact .inr (.inr ⟨_, rfl, rfl, rfl⟩)
  · cases h

end Encodings

/-- Settles O55: each of the three maps decodes the word the encoder gives for its instruction. -/
theorem decodeOfEncodeIsTheInstruction : Obligations.DecodeOfEncodeIsTheInstruction := by
  intro p i rest hp hw
  obtain ⟨op, rfl⟩ | rfl | ⟨code, rfl⟩ := wellFormed_cases hp hw
  · rw [encode_decodeOp]
    exact decode_command op rest
  · exact decode_stream rest
  · rw [encode_decodeCode]
    exact decode_frame code rest

/-- Settles O56: the same three maps, from the word to the instruction. -/
theorem encodeOfDecodeIsTheWord : Obligations.EncodeOfDecodeIsTheWord := by
  intro p sp bytes rest i h
  obtain ⟨op, rfl, rfl, rfl⟩ | ⟨rfl, rfl, rfl⟩ | ⟨code, rfl, rfl, rfl⟩ := decode_eq_ok h
  · rw [encode_decodeOp]
    exact ⟨wellFormed_decodeOp op, rfl, rfl⟩
  · exact ⟨rfl, rfl, rfl⟩
  · rw [encode_decodeCode]
    exact ⟨wellFormed_decodeCode code, rfl, rfl⟩

/-- Settles O57: each word is evaluated under the default parameters. -/
theorem wordsOfTheTablesDecode : Obligations.WordsOfTheTablesDecode := by
  unfold Obligations.WordsOfTheTablesDecode
  decide

/-! ## The frame between two delimiters -/

section Extraction

variable {s : State} {sup : Bool}

theorem delim_of_start {i : Nat} (hm : s.micro = .seekStart sup) (hi : findDelim s.sb 0 = some i) :
    exec .delim s = .next (s.goto (.seekEnd sup (i + 2))) := by
  simp only [exec, execDelim, hm, hi]

theorem delim_of_end {bodyStart f : Nat} (hm : s.micro = .seekEnd sup bodyStart) (hf : findDelim s.sb bodyStart = some f) :
    exec .delim s = .next (s.endBody sup bodyStart f) := by
  simp only [exec, execDelim, hm, hf]

/-- EXTRACT with both delimiters found (42_synchronizer.md R69). -/
theorem extract_of_delims {i f : Nat} (hm : s.micro = .extract sup) (hi : findDelim s.sb 0 = some i)
    (hf : findDelim s.sb (i + 2) = some f) :
    exec .extract s = .next (((s.goto (.seekStart sup)).goto (.seekEnd sup (i + 2))).endBody sup (i + 2) f) := by
  have hstart := delim_of_start (s := s.goto (.seekStart sup)) rfl hi
  have hend := delim_of_end (s := (s.goto (.seekStart sup)).goto (.seekEnd sup (i + 2))) rfl hf
  simp only [exec] at hstart hend
  simp only [exec, execExtract, hm, hstart, andThen_next, State.goto_micro, hend]

/-- The body between two parts is cut out by its bounds, and draining up to its end leaves the part after it. -/
theorem slice_append_append (pre body r : List Byte) :
    slice (pre ++ (body ++ r)) pre.length (pre.length + body.length) = body := by
  rw [slice, List.take_length_add_append, List.take_left, List.drop_left]

theorem drop_append_append (pre body r : List Byte) : (pre ++ (body ++ r)).drop (pre.length + body.length) = r := by
  rw [List.drop_length_add_append, List.drop_left]

/-- A body that is not empty goes to VALIDATE, and what stands after it stays in SB. -/
theorem endBody_of_append {pre body r : List Byte} (hsb : s.sb = pre ++ (body ++ r)) (hne : body ≠ []) :
    (s.endBody sup pre.length (pre.length + body.length)).micro = .validate sup body ∧
      (s.endBody sup pre.length (pre.length + body.length)).sb = r := by
  have hpos : pre.length + body.length ≠ pre.length := by simpa using hne
  rw [State.endBody, if_neg hpos, hsb, slice_append_append]
  exact ⟨rfl, by rw [State.goto_sb, State.drain_sb, hsb, drop_append_append]⟩

end Extraction

/-- Settles O13: the first search stops behind the garbage, the second one behind the body. -/
theorem extractTakesTheBodyBetweenDelimiters : Obligations.ExtractTakesTheBodyBetweenDelimiters := by
  intro s sup garbage body rest hm hg hb hne hsb
  have hpre : (garbage ++ [0xFF, 0xFF] : List Byte).length = garbage.length + 2 := List.length_append
  have hfirst : findDelim s.sb 0 = some garbage.length := by
    rw [hsb, List.append_assoc, List.append_assoc]
    exact findDelim_of_clean hg
  replace hsb : s.sb = (garbage ++ [0xFF, 0xFF]) ++ (body ++ ([0xFF, 0xFF] ++ rest)) := by simp [hsb]
  have hsecond : findDelim s.sb (garbage.length + 2) = some (garbage.length + 2 + body.length) := by
    rw [hsb, ← hpre, ← List.append_assoc body]
    exact findDelim_append (findDelim_of_clean hb)
  refine ⟨_, extract_of_delims hm hfirst hsecond, ?_⟩
  rw [← hpre]
  exact endBody_of_append hsb hne

/-! ## The bits a decoder reads -/

section ReadBits

/-- A sequence with every bit cleared that the mask does not mark. -/
def masked (q m : List Byte) : List Byte := q.zipWith (· &&& ·) m

/-- The mask marks the `n` bits of byte `i` from bit `o` on. -/
def marks (m : List Byte) (i o n : Nat) : Bool := (m[i]?).any fun k => k.toNat / 2 ^ o % 2 ^ n == 2 ^ n - 1

/-- A byte and a nibble are bit spans (40_bitbuffer.md R57 to R59), so what holds of spans holds of the other accessors. -/
theorem byteAt_eq_bitsAt (q : List Byte) (i : Nat) : byteAt q i = bitsAt q i 0 8 := by
  cases h : byteAt q i with
  | error e => simp [bitsAt, h, bind, Except.bind]
  | ok v =>
    have hv : v % 256 = v := Nat.mod_eq_of_lt (byteAt_lt h)
    simp [bitsAt, h, bind, Except.bind, hv]

theorem nibbleAt_low_eq_bitsAt (q : List Byte) (i : Nat) : nibbleAt q i 0 = bitsAt q i 0 4 := by
  simp [nibbleAt, bitsAt]

theorem nibbleAt_high_eq_bitsAt (q : List Byte) (i : Nat) : nibbleAt q i 1 = bitsAt q i 4 4 := by
  cases h : byteAt q i with
  | error e => simp [nibbleAt, bitsAt, h, bind, Except.bind]
  | ok v =>
    have hv : v / 16 % 16 = v / 16 := Nat.mod_eq_of_lt (Nat.div_lt_of_lt_mul (byteAt_lt h))
    simp [nibbleAt, bitsAt, h, bind, Except.bind, hv]

variable {q m : List Byte} {i : Nat} (hl : q.length = m.length)

include hl

theorem byteAt_masked_eq_and {k : Byte} (hk : m[i]? = some k) :
    byteAt (masked q m) i = (byteAt q i).map (· &&& k.toNat) := by
  obtain ⟨hi, -⟩ := List.getElem?_eq_some_iff.1 hk
  have hq : q[i]? = some q[i] := by simp
  rw [byteAt_ok hq, byteAt_ok (b := q[i] &&& k) (by simp [masked, hq, hk, List.getElem?_zipWith]), BitVec.toNat_and]
  rfl

/-- Clearing unmarked bits does not change a span of marked ones. -/
theorem bitsAt_masked {o n : Nat} (hm : marks m i o n = true) : bitsAt (masked q m) i o n = bitsAt q i o n := by
  obtain ⟨k, hk, hspan⟩ : ∃ k, m[i]? = some k ∧ k.toNat / 2 ^ o % 2 ^ n = 2 ^ n - 1 := by
    simpa [marks, Option.any_eq_true] using hm
  have hand (v : Nat) : (v &&& k.toNat) / 2 ^ o % 2 ^ n = v / 2 ^ o % 2 ^ n := by
    rw [Nat.and_div_two_pow, Nat.and_mod_two_pow, hspan, Nat.and_two_pow_sub_one_eq_mod, Nat.mod_mod]
  unfold bitsAt
  rw [byteAt_masked_eq_and hl hk]
  cases byteAt q i <;> simp [Except.map, bind, Except.bind, hand]

theorem byteAt_masked (hm : marks m i 0 8 = true) : byteAt (masked q m) i = byteAt q i := by
  rw [byteAt_eq_bitsAt, byteAt_eq_bitsAt, bitsAt_masked hl hm]

theorem nibbleAt_low_masked (hm : marks m i 0 4 = true) : nibbleAt (masked q m) i 0 = nibbleAt q i 0 := by
  rw [nibbleAt_low_eq_bitsAt, nibbleAt_low_eq_bitsAt, bitsAt_masked hl hm]

theorem nibbleAt_high_masked (hm : marks m i 4 4 = true) : nibbleAt (masked q m) i 1 = nibbleAt q i 1 := by
  rw [nibbleAt_high_eq_bitsAt, nibbleAt_high_eq_bitsAt, bitsAt_masked hl hm]

theorem wordAt_masked (hlo : marks m i 0 8 = true) (hhi : marks m (i + 1) 0 8 = true) :
    wordAt (masked q m) i = wordAt q i := by
  rw [wordAt, wordAt, byteAt_masked hl hlo, byteAt_masked hl hhi]

theorem nibbleRun_masked (h0 : marks m i 0 4 = true) (h1 : marks m i 4 4 = true) (h2 : marks m (i + 1) 0 4 = true) :
    nibbleRun (masked q m) i 0 3 = nibbleRun q i 0 3 := by
  simp [nibbleRun, nibbleSum, nibbleAt_low_masked hl h0, nibbleAt_high_masked hl h1, nibbleAt_low_masked hl h2]

end ReadBits

/-- A mask is as long as the frames of its kind (41_registry.md R65). -/
theorem length_readMask {kind : DeviceKind} {n : Nat} (h : expectedLength kind = some n) : (readMask kind).length = n := by
  cases kind <;> cases h <;> rfl

/-- A decoder reads marked bits only: each of its reads is a span the mask of its kind marks (30_encoding.md R43 to R48). -/
theorem decodeRef_masked {kind : DeviceKind} {fr : List Byte} (h : Validated kind fr) :
    decodeRef kind (masked fr (readMask kind)) = decodeRef kind fr := by
  have hl : fr.length = (readMask kind).length := (length_readMask h).symm
  cases kind with
  | rainfall =>
    simp (disch := decide) only [decodeRef, decodeRain, byteAt_masked hl, nibbleAt_high_masked hl, wordAt_masked hl]
  | thermohygrometer =>
    simp (disch := decide) only [decodeRef, decodeThermo, decodeHeat, bitsAt_masked hl, byteAt_masked hl,
      nibbleAt_low_masked hl, nibbleAt_high_masked hl, nibbleRun_masked hl]
  | barometer => simp (disch := decide) only [decodeRef, decodeBaro, nibbleAt_high_masked hl, nibbleRun_masked hl]
  | uv => simp (disch := decide) only [decodeRef, decodeUv, byteAt_masked hl, nibbleAt_high_masked hl]
  | anemometer =>
    simp (disch := decide) only [decodeRef, decodeAnemo, decodeChill, bitsAt_masked hl, byteAt_masked hl,
      nibbleAt_low_masked hl, nibbleAt_high_masked hl, nibbleRun_masked hl]
  | clock => simp (disch := decide) only [decodeRef, decodeClock, bitsAt_masked hl, byteAt_masked hl]
  | unknown => rfl

/-- Settles O33: either frame decodes as the masked one, and the masked ones are equal. -/
theorem unusedBitsDoNotChangeTheReading : Obligations.UnusedBitsDoNotChangeTheReading := by
  intro kind a b ha hb hagree
  calc decodeRef kind a = decodeRef kind (masked a (readMask kind)) := (decodeRef_masked ha).symm
    _ = decodeRef kind (masked b (readMask kind)) := congrArg (decodeRef kind) hagree
    _ = decodeRef kind b := decodeRef_masked hb

end Sys2Proof.Machine

/-! PROOFS of the statements about the BitBuffer accessors (40_bitbuffer.md): what they read inside a sequence, how they fail outside it
or outside their domain, and the digits of a nibble run. -/

namespace Sys2Proof.Machine

/-! ## The accessors -/

section AccessorFailures

variable {q : List Byte} {pos o n : Nat}

theorem bitsAt_past (h : q.length ≤ pos) (hd : 1 ≤ n ∧ o + n ≤ 8) :
    bitsAt q pos o n = .error (.outOfRange pos q.length) := by
  rw [bitsAt, if_pos hd, byteAt_past h]; rfl

theorem nibbleAt_past (h : q.length ≤ pos) (ho : o ≤ 1) : nibbleAt q pos o = .error (.outOfRange pos q.length) := by
  rcases Nat.le_one_iff_eq_zero_or_eq_one.1 ho with rfl | rfl <;> simp [nibbleAt, byteAt_past h, bind, Except.bind]

theorem wordAt_past (h : q.length ≤ pos) : wordAt q pos = .error (.outOfRange pos q.length) := by
  rw [wordAt, byteAt_past h]; rfl

/-- A word across the end fails on its high byte (40_bitbuffer.md R61). -/
theorem wordAt_last (h : q.length = pos + 1) : wordAt q pos = .error (.outOfRange (pos + 1) q.length) := by
  obtain ⟨v, hv, -⟩ := byteAt_inside (show pos < q.length by omega)
  rw [wordAt, hv, byteAt_past h.le]; rfl

theorem bitsAt_refused (h : n = 0 ∨ 8 < o + n) : bitsAt q pos o n = .error (.undefinedBitSpan o n) := by
  rw [bitsAt, if_neg (by omega)]

theorem nibbleAt_refused (h : 2 ≤ o) : nibbleAt q pos o = .error (.undefinedNibble o) := by
  match o, h with
  | _ + 2, _ => rfl

end AccessorFailures

/-- Settles O34: one lemma for each accessor. -/
theorem accessorsReadInside : Obligations.AccessorsReadInside := fun _ _ _ hb =>
  ⟨byteAt_ok hb, fun _ _ hn hon => bitsAt_ok hb ⟨hn, hon⟩, fun _ hi => bitsAt_bit hb hi, nibbleAt_low hb, nibbleAt_high hb,
    fun _ hc => wordAt_ok hb hc⟩

/-- Settles O35: past the end the byte's read fails, outside the domain nothing is read. -/
theorem accessorsFailOutside : Obligations.AccessorsFailOutside := fun _ _ =>
  ⟨fun h => ⟨byteAt_past h, fun _ _ hn hon => bitsAt_past h ⟨hn, hon⟩, fun _ ho => nibbleAt_past h ho, wordAt_past h⟩,
    wordAt_last, fun _ _ => bitsAt_refused, fun _ => nibbleAt_refused⟩

/-! ## The digits of a nibble run -/

section NibbleRunDigits

variable {q : List Byte} {p o count : Nat}

/-- A nibble is a digit to base 16 of its byte (40_bitbuffer.md R59). -/
theorem nibbleAt_eq_digit {pos : Nat} (h : pos < q.length) (ho : o ≤ 1) :
    nibbleAt q pos o = .ok ((q.getD pos 0).toNat / 16 ^ o % 16) := by
  have hb : q[pos]? = some (q.getD pos 0) := by simp [h]
  have hlt := byte_lt (q.getD pos 0)
  rcases Nat.le_one_iff_eq_zero_or_eq_one.1 ho with rfl | rfl
  · rw [nibbleAt_low hb, pow_zero, Nat.div_one]
  · rw [nibbleAt_high hb, pow_one, Nat.mod_eq_of_lt (by omega : _ / 16 < 16)]

/-- A digit put in front of a number leaves the lower digits as they are. -/
theorem digit_add_mul_pow {v n j c : Nat} (h : j < c) : (v + n * 16 ^ c) / 16 ^ j % 16 = v / 16 ^ j % 16 := by
  obtain ⟨k, rfl⟩ := Nat.exists_eq_add_of_lt h
  have hsplit : v + n * 16 ^ (j + k + 1) = v + 16 ^ j * (16 * (n * 16 ^ k)) := by ring
  rw [hsplit, Nat.add_mul_div_left _ _ (by positivity), Nat.add_mul_mod_self_left]

theorem nibbleRun_lt {v : Nat} (ho : o ≤ 1) (h : nibbleRun q p o count = .ok v) : v < 16 ^ count := by
  rw [nibbleRun, if_pos ho] at h
  exact nibbleSum_lt h

/-- Inside the sequence a run's digits to base 16 are its nibbles, the first one least significant (40_bitbuffer.md R60). -/
theorem nibbleRun_digits (ho : o ≤ 1) (hin : 2 * p + o + count ≤ 2 * q.length) :
    ∃ v, nibbleRun q p o count = .ok v ∧
      ∀ j, j < count → v / 16 ^ j % 16 = (q.getD (p + (o + j) / 2) 0).toNat / 16 ^ ((o + j) % 2) % 16 := by
  induction count with
  | zero => exact ⟨0, nibbleRun_zero ho, fun _ hj => absurd hj (Nat.not_lt_zero _)⟩
  | succ c ih =>
    obtain ⟨v, hv, hdigits⟩ := ih (by omega)
    have hlast := nibbleAt_eq_digit (q := q) (pos := p + (o + c) / 2) (o := (o + c) % 2) (by omega) (by omega)
    refine ⟨_, nibbleRun_succ ho hv hlast, fun j hj => ?_⟩
    rcases Nat.lt_succ_iff_lt_or_eq.1 hj with hlt | rfl
    · rw [digit_add_mul_pow hlt, hdigits j hlt]
    · have hv0 : v / 16 ^ j = 0 := Nat.div_eq_of_lt (nibbleRun_lt ho hv)
      rw [Nat.add_mul_div_right _ _ (by positivity), hv0, Nat.zero_add, Nat.mod_mod]

/-- A run that reaches a nibble past the end fails there. -/
theorem nibbleRun_fails_at_nibble {v : Nat} (ho : o ≤ 1) (hv : nibbleRun q p o count = .ok v)
    (hout : q.length ≤ p + (o + count) / 2) :
    nibbleRun q p o (count + 1) = .error (.outOfRange (p + (o + count) / 2) q.length) := by
  rw [nibbleRun, if_pos ho] at hv ⊢
  rw [nibbleSum, hv, nibbleAt_past hout (by omega)]; rfl

/-- A run that has failed stays failed. -/
theorem nibbleRun_error_succ {e : ReadError} (ho : o ≤ 1) (h : nibbleRun q p o count = .error e) :
    nibbleRun q p o (count + 1) = .error e := by
  rw [nibbleRun, if_pos ho] at h ⊢
  rw [nibbleSum, h]; rfl

/-- A run whose last nibble lies past the end is OutOfRange. -/
theorem nibbleRun_past (ho : o ≤ 1) (hout : 2 * q.length < 2 * p + o + (count + 1)) :
    ∃ pos, q.length ≤ pos ∧ nibbleRun q p o (count + 1) = .error (.outOfRange pos q.length) := by
  induction count with
  | zero => exact ⟨_, by omega, nibbleRun_fails_at_nibble ho (nibbleRun_zero ho) (by omega)⟩
  | succ c ih =>
    rcases Nat.lt_or_ge (2 * q.length) (2 * p + o + (c + 1)) with hearlier | hin
    · obtain ⟨pos, hpos, herr⟩ := ih hearlier
      exact ⟨pos, hpos, nibbleRun_error_succ ho herr⟩
    · obtain ⟨v, hv, -⟩ := nibbleRun_digits ho hin
      exact ⟨_, by omega, nibbleRun_fails_at_nibble ho hv (by omega)⟩

theorem nibbleRun_refused (h : 2 ≤ o) : nibbleRun q p o count = .error (.undefinedNibble o) := by
  rw [nibbleRun, if_neg (by omega)]

end NibbleRunDigits

/-- Settles O37: by induction on the count, inside the sequence (`nibbleRun_digits`) and past its end (`nibbleRun_past`). -/
theorem nibbleRunsRoundTrip : Obligations.NibbleRunsRoundTrip := by
  intro q p o count
  refine ⟨fun ho hin => ?_, fun ho hcount hout => ?_, nibbleRun_zero, nibbleRun_refused⟩
  · obtain ⟨v, hv, hdigits⟩ := nibbleRun_digits ho hin
    exact ⟨v, hv, nibbleRun_lt ho hv, hdigits⟩
  · obtain ⟨c, rfl⟩ := Nat.exists_eq_add_of_le' hcount
    exact nibbleRun_past ho hout

end Sys2Proof.Machine

/-! PROOFS of the statements about the FrameSynchronizer (42_synchronizer.md): what APPEND, DELIM, EXTRACT and REQUEUE answer, case by
case, and the progress of a POLL. Past EXTRACT a POLL can no longer end as one that found no delimiter (`exec_pastSearch`). -/

namespace Sys2Proof.Machine

/-! ## APPEND and REQUEUE -/

section AppendAndRequeue

variable {s : State}

/-- A valid chunk holds the payload it announces (30_encoding.md R39). -/
theorem length_payload {p : Pins} {n : Nat} (h : n + 2 ≤ p.chunkLen.toNat) : (slice p.ch 2 (n + 2)).length = n := by
  have hch : p.ch.length = p.chunkLen.toNat := List.takeD_length ..
  rw [slice, List.length_drop, List.length_take, hch, Nat.min_eq_left h, Nat.add_sub_cancel]

/-- A chunk length outside 1 to CAP (42_synchronizer.md R68). -/
theorem append_of_bad_length (hm : s.micro = .idle) (ho : s.ovfSet = false)
    (hl : s.port.chunkLen.toNat > s.params.cap.toNat ∨ s.port.chunkLen.toNat < 1) :
    exec .append s = .next (s.respond .badChunk) := by
  simp only [exec, execAppend, atPort_idle _ _ hm, ho, Bool.false_eq_true, if_false, if_pos hl]

/-- A payload count the chunk cannot hold, or none, whatever its length (42_synchronizer.md R68). -/
theorem append_of_bad_count {b : Byte} (hm : s.micro = .idle) (ho : s.ovfSet = false) (hb : s.port.ch[0]? = some b)
    (hn : b.toNat < 1 ∨ b.toNat + 2 > s.port.chunkLen.toNat) : exec .append s = .next (s.respond .badChunk) := by
  by_cases hl : s.port.chunkLen.toNat > s.params.cap.toNat ∨ s.port.chunkLen.toNat < 1
  · exact append_of_bad_length hm ho hl
  · simp only [exec, execAppend, atPort_idle _ _ hm, ho, Bool.false_eq_true, if_false, if_neg hl, byteAt_ok hb, ofRead_ok,
      if_pos hn]

theorem requeue_of_fits {sup : Bool} {kind : DeviceKind} {fr extra : List Byte} (hm : s.micro = .requeue sup kind fr extra)
    (hf : s.fits (extra ++ s.sb) = true) :
    exec .requeue s = .next (({ s with sb := extra ++ s.sb } : State).goto (.check sup kind fr true)) := by
  simp only [exec, execRequeue, hm, State.writeSB_fits _ _ hf]

end AppendAndRequeue

/-- Settles O6: a valid chunk that fits is appended, and the tests of length and count turn away the others. -/
theorem appendTakesValidChunksOnly : Obligations.AppendTakesValidChunksOnly := by
  intro s hm ho
  constructor
  · intro b hl hcap hb hn hfit hroom
    exact ⟨⟨[], by rw [append_of_valid hm ho hl hcap hb hn hfit, hroom]; rfl⟩, length_payload hfit⟩
  · intro hbad
    refine ⟨[], (?_ : exec .append s = .next (s.respond .badChunk))⟩
    obtain hlong | hshort | ⟨b, hb, hn⟩ := hbad
    · exact append_of_bad_length hm ho (.inl hlong)
    · exact append_of_bad_length hm ho (.inr hshort)
    · exact append_of_bad_count hm ho hb hn

/-- Settles O15: the write has room, so REQUEUE goes on to the checks. -/
theorem requeuePrepends : Obligations.RequeuePrepends := fun _ _ _ _ _ hm hf => ⟨_, requeue_of_fits hm hf⟩

/-! ## The search for a delimiter -/

/-- Settles O9: an answer is the first occurrence, and without an answer there is none. -/
theorem findDelimIsTheLeastOccurrence : Obligations.FindDelimIsTheLeastOccurrence := by
  intro q a
  split
  next i hi =>
    obtain ⟨hle, hocc, hleast⟩ := findDelim_eq_some hi
    exact ⟨hle, hocc.lt, hocc.1, hocc.2, hleast⟩
  next hnone => exact findDelim_eq_none hnone

/-- What begins at an occurrence begins with a delimiter. -/
theorem findDelim_drop_of_occursAt {q : List Byte} {f : Nat} (h : OccursAt q f) : findDelim (q.drop f) 0 = some 0 :=
  findDelim_of_least le_rfl ((occursAt_drop q f 0).2 h) fun _ _ hlt => absurd hlt (Nat.not_lt_zero _)

/-- What stands between a search's start and its answer is clean: an occurrence in it, or one made of its last byte and the
delimiter found, would have been found first. -/
theorem clean_slice_of_findDelim {q : List Byte} {a f : Nat} (h : findDelim q a = some f) : Clean (slice q a f) := by
  obtain ⟨hle, ⟨hf, _⟩, hleast⟩ := findDelim_eq_some h
  have hbyte {j : Nat} (hj : (slice q a f)[j]? = some (0xFF : Byte)) : a + j < f ∧ q[a + j]? = some (0xFF : Byte) := by
    rw [slice_getElem?] at hj
    split at hj
    · exact ⟨‹_›, hj⟩
    · cases hj
  constructor
  · rintro j ⟨hj, hj'⟩
    obtain ⟨hlt, hq⟩ := hbyte hj
    exact hleast (a + j) (by omega) hlt ⟨hq, (hbyte hj').2⟩
  · intro hlast
    rw [List.getLast?_eq_getElem?] at hlast
    obtain ⟨hlt, hq⟩ := hbyte hlast
    have hlen : (slice q a f).length = f - a := by
      have hin : f < q.length := (List.getElem?_eq_some_iff.1 hf).1
      rw [slice, List.length_drop, List.length_take, Nat.min_eq_left hin.le]
    rw [hlen] at hlt hq
    have hnext : a + (f - a - 1) + 1 = f := by omega
    exact hleast _ (by omega) hlt ⟨hq, by rwa [hnext]⟩

/-! ## DELIM and EXTRACT -/

section Searches

variable {s : State} {sup : Bool}

theorem delim_of_no_start (hm : s.micro = .seekStart sup) (hi : findDelim s.sb 0 = none) :
    exec .delim s = .next (s.finish .noStart false) := by
  simp only [exec, execDelim, hm, hi]

theorem delim_of_no_end {b : Nat} (hm : s.micro = .seekEnd sup b) (hf : findDelim s.sb b = none) :
    exec .delim s = .next (s.finish .noEnd false) := by
  simp only [exec, execDelim, hm, hf]

/-- A point passed inside one micro-operation leaves no trace in the command's end. -/
theorem State.finish_goto (s : State) {m : Micro} (code : StatusCode) (t : Bool) (h : s.micro.phase = m.phase) :
    (s.goto m).finish code t = s.finish code t := by
  simp only [State.finish, State.goto, h, if_true]

theorem State.endBody_goto (s : State) {m : Micro} (b f : Nat) (h : s.micro.phase = m.phase) :
    (s.goto m).endBody sup b f = s.endBody sup b f := by
  simp only [State.endBody, State.drain, State.finish, State.goto, h, if_true]

@[simp] theorem State.endBody_sb (s : State) (b f : Nat) : (s.endBody sup b f).sb = s.sb.drop f := by
  unfold State.endBody
  split <;> rfl

theorem State.endBody_empty (s : State) (b : Nat) : s.endBody sup b b = (s.drain b).finish .emptyFrame false := if_pos rfl

theorem State.endBody_frame (s : State) {b f : Nat} (h : f ≠ b) :
    s.endBody sup b f = (s.drain f).goto (.validate sup (slice s.sb b f)) := if_neg h

/-- EXTRACT is over where its first search ends the command. -/
theorem extract_of_delim_idle {s1 : State} (hm : s.micro = .extract sup) (h1 : exec .delim (s.goto (.seekStart sup)) = .next s1)
    (hm1 : s1.micro = .idle) : exec .extract s = .next s1 := by
  simp only [exec] at h1
  simp only [exec, execExtract, hm, h1, andThen_next, hm1]

/-- Behind a start marker EXTRACT is its second search. -/
theorem extract_of_delim_seekEnd {s1 : State} {b : Nat} (hm : s.micro = .extract sup)
    (h1 : exec .delim (s.goto (.seekStart sup)) = .next s1) (hm1 : s1.micro = .seekEnd sup b) :
    exec .extract s = exec .delim s1 := by
  simp only [exec] at h1
  simp only [exec, execExtract, hm, h1, andThen_next, hm1]

theorem extract_of_no_start (hm : s.micro = .extract sup) (hi : findDelim s.sb 0 = none) :
    exec .extract s = .next (s.finish .noStart false) := by
  have hstart := delim_of_no_start (s := s.goto (.seekStart sup)) rfl hi
  rw [extract_of_delim_idle hm hstart rfl, State.finish_goto _ _ _ (by rw [hm]; rfl)]

theorem extract_of_no_end {i : Nat} (hm : s.micro = .extract sup) (hi : findDelim s.sb 0 = some i)
    (hf : findDelim s.sb (i + 2) = none) : exec .extract s = .next (s.finish .noEnd false) := by
  have hstart := delim_of_start (s := s.goto (.seekStart sup)) rfl hi
  have hend := delim_of_no_end (s := (s.goto (.seekStart sup)).goto (.seekEnd sup (i + 2))) rfl hf
  rw [extract_of_delim_seekEnd hm hstart rfl, hend, State.finish_goto _ _ _ (by rfl),
    State.finish_goto _ _ _ (by rw [hm]; rfl)]

/-- The points of the two searches leave no trace in what EXTRACT does with the body. -/
theorem extract_of_end {i f : Nat} (hm : s.micro = .extract sup) (hi : findDelim s.sb 0 = some i)
    (hf : findDelim s.sb (i + 2) = some f) : exec .extract s = .next (s.endBody sup (i + 2) f) := by
  rw [extract_of_delims hm hi hf, State.endBody_goto _ _ _ (by rfl), State.endBody_goto _ _ _ (by rw [hm]; rfl)]

/-- What EXTRACT answers, by its two searches (42_synchronizer.md R69). -/
theorem extract_cases (hm : s.micro = .extract sup) :
    findDelim s.sb 0 = none ∧ exec .extract s = .next (s.finish .noStart false) ∨
    ∃ i, findDelim s.sb 0 = some i ∧
      (findDelim s.sb (i + 2) = none ∧ exec .extract s = .next (s.finish .noEnd false) ∨
        ∃ f, findDelim s.sb (i + 2) = some f ∧ exec .extract s = .next (s.endBody sup (i + 2) f)) := by
  cases hi : findDelim s.sb 0 with
  | none => exact .inl ⟨rfl, extract_of_no_start hm hi⟩
  | some i =>
    refine .inr ⟨i, rfl, ?_⟩
    cases hf : findDelim s.sb (i + 2) with
    | none => exact .inl ⟨rfl, extract_of_no_end hm hi hf⟩
    | some f => exact .inr ⟨f, rfl, extract_of_end hm hi hf⟩

end Searches

/-- Settles O10, by the answers of the two searches. -/
theorem delimSearchesForStartAndEnd : Obligations.DelimSearchesForStartAndEnd := by
  constructor
  · intro s sup hm
    split
    next hi => exact ⟨_, delim_of_no_start hm hi⟩
    next i hi => exact ⟨_, delim_of_start hm hi⟩
  · intro s sup b hm
    split
    next hf => exact ⟨_, delim_of_no_end hm hf⟩
    next f hf =>
      have hend := delim_of_end hm hf
      split
      next hfb =>
        subst hfb
        exact ⟨_, hend.trans (congrArg _ (s.endBody_empty f))⟩
      next hfb => exact ⟨_, hend.trans (congrArg _ (s.endBody_frame hfb))⟩

/-- Settles O11: each case of EXTRACT is the pseudocode's case of the same two searches. -/
theorem extractFollowsItsPseudocode : Obligations.ExtractFollowsItsPseudocode := by
  intro s sup hm
  obtain ⟨hi, hx⟩ | ⟨i, hi, ⟨hf, hx⟩ | ⟨f, hf, hx⟩⟩ := extract_cases hm
  · exact ⟨_, hx, by simp [extractRef, hi, KeepsInputs, statusWord, StatusCode.bits]⟩
  · exact ⟨_, hx, by simp [extractRef, hi, hf, KeepsInputs, statusWord, StatusCode.bits]⟩
  · refine ⟨_, hx, ?_⟩
    by_cases hfb : f = i + 2
    · simp [extractRef, hi, hf, hfb, State.endBody_empty, KeepsInputs, statusWord, StatusCode.bits]
    · simp [extractRef, hi, hf, hfb, State.endBody_frame, KeepsInputs]

/-- Settles O12: a frame is what stands between the second search's start and its answer; the example's body is FF 41. -/
theorem extractedFramesAreClean : Obligations.ExtractedFramesAreClean := by
  constructor
  · intro s t sup fr hm h hmt
    obtain ⟨_, hx⟩ | ⟨i, _, ⟨_, hx⟩ | ⟨f, hf, hx⟩⟩ := extract_cases hm <;> cases hx.symm.trans h
    · cases hmt
    · cases hmt
    · by_cases hfb : f = i + 2
      · rw [hfb, State.endBody_empty] at hmt
        cases hmt
      · rw [State.endBody_frame s hfb] at hmt
        cases hmt
        obtain ⟨hle, hocc, _⟩ := findDelim_eq_some hf
        have hlt : f + 1 < s.sb.length := hocc.lt
        refine ⟨?_, clean_slice_of_findDelim hf⟩
        rw [slice, List.length_drop, List.length_take]
        omega
  · exact ⟨{ State.reset with micro := .extract true, sb := [0xFF, 0xFF, 0xFF, 0x41, 0xFF, 0xFF] }, _, [0xFF, 0x41],
      rfl, rfl, rfl, rfl⟩

/-- Settles O14: both outcomes drain SB up to the end marker; the other two end with another status. -/
theorem extractResynchronisesAtADelimiter : Obligations.ExtractResynchronisesAtADelimiter := by
  intro s t sup hm h hout
  obtain ⟨_, hx⟩ | ⟨i, hi, ⟨_, hx⟩ | ⟨f, hf, hx⟩⟩ := extract_cases hm <;> cases hx.symm.trans h
  · simp [statusWord, StatusCode.bits] at hout
  · simp [statusWord, StatusCode.bits] at hout
  · obtain ⟨hle, hocc, _⟩ := findDelim_eq_some hf
    obtain ⟨hfst, hsnd⟩ := (occursAt_drop s.sb f 0).2 hocc
    rw [State.endBody_sb]
    exact ⟨i, f, hi, hle, rfl, findDelim_drop_of_occursAt hocc, hfst, hsnd⟩

/-! ## The progress of a POLL -/

section Progress

variable {s t : State}

/-- A POLL that EXTRACT does not end with ST_NO_START or ST_NO_END: it stands behind EXTRACT, at a record with another status,
or it has ended with another status. -/
def State.pastSearch (s : State) : Prop :=
  match s.micro with
  | .idle => s.drained = false
  | .extract _ | .seekStart _ | .seekEnd _ _ => False
  | .emit rec => ({ s with status := rec.status } : State).drained = false
  | _ => True

theorem statusWord_code (code : StatusCode) (tr : Bool) : (statusWord code tr).setWidth 4 = code.bits :=
  BitVec.setWidth_append_eq_right

/-- The host reads the two codes alone, whatever T is (70_reset_and_hazards.md R155). -/
theorem drained_of_status {code : StatusCode} {tr : Bool} (hs : s.status = statusWord code tr) :
    s.drained = (code == .noStart || code == .noEnd) := by
  rw [State.drained, hs, statusWord_code]
  cases code <;> rfl

@[simp] theorem finish_drained (s : State) (code : StatusCode) (tr : Bool) :
    (s.finish code tr).drained = (code == .noStart || code == .noEnd) := drained_of_status rfl

theorem respond_pastSearch (hm : s.micro = .idle) : (s.respond .illegalCmd).pastSearch := by
  simp only [State.pastSearch, State.respond_micro, hm]
  exact drained_of_status (code := .illegalCmd) (tr := false) rfl

theorem report_pastSearch (s : State) (sup : Bool) (fr : List Byte) (tr : Bool) (e : ValidationError) :
    (s.report sup fr tr e).pastSearch := by
  have hcode : (e.code == .noStart || e.code == .noEnd) = false := by cases e <;> rfl
  cases sup <;> exact (drained_of_status rfl).trans hcode

theorem decUnknown_pastSearch {code : Byte} (h : exec (.decUnknown code) s = .next t) : t.pastSearch := by
  obtain ⟨_, _, _, _, rfl⟩ := decUnknown_inv h
  exact report_pastSearch ..

theorem requeue_pastSearch (h : exec .requeue s = .next t) : t.pastSearch := by
  obtain ⟨_, _, _, _, _, ⟨_, rfl⟩ | ⟨_, _, rfl⟩⟩ | ⟨hm, rfl⟩ := requeue_inv h
  · trivial
  · exact finish_drained ..
  · exact respond_pastSearch hm

theorem validateCheck_pastSearch {sup : Bool} {kind : DeviceKind} {fr : List Byte} {tr : Bool}
    (h : validateCheck sup kind fr tr s = .next t) : t.pastSearch := by
  obtain ⟨_, _, ⟨_, rfl⟩ | ⟨_, _, _, ⟨_, rfl⟩ | ⟨_, rfl⟩⟩⟩ := validateCheck_inv h
  · exact report_pastSearch ..
  · exact report_pastSearch ..
  · trivial

theorem validate_pastSearch (h : exec .validate s = .next t) : t.pastSearch := by
  obtain ⟨_, _, _, ⟨_, rfl⟩ | ⟨_, _, ⟨_, hu⟩ | ⟨_, _, ⟨_, s1, hq, ⟨_, rfl⟩ | ⟨_, hc⟩⟩ | ⟨_, hc⟩⟩⟩⟩ |
    ⟨_, _, _, _, _, hc⟩ | ⟨hm, rfl⟩ := validate_inv h
  · exact report_pastSearch ..
  · exact decUnknown_pastSearch hu
  · exact requeue_pastSearch hq
  · exact validateCheck_pastSearch hc
  · exact validateCheck_pastSearch hc
  · exact validateCheck_pastSearch hc
  · exact respond_pastSearch hm

theorem goto_reading_pastSearch (s : State) (kind : DeviceKind) (tr : Bool) (rd : Reading) :
    (s.goto (.emit (.reading kind tr rd))).pastSearch :=
  drained_of_status (code := .reading) (tr := tr) rfl

/-- Past the search no micro-operation leads back to it, or to ST_NO_START or ST_NO_END. -/
theorem exec_pastSearch {i : Instr} (hi : isCommand i = false) (hs : s.pastSearch) (h : exec i s = .next t) :
    t.pastSearch := by
  cases i with
  | nop | append | poll | reset => cases hi
  | extract =>
    obtain ⟨_, _, hm, _⟩ | ⟨hm, rfl⟩ := extract_inv h
    · simp [State.pastSearch, hm] at hs
    · exact respond_pastSearch hm
  | delim => obtain ⟨_, hm, _⟩ | ⟨_, _, hm, _⟩ := delim_inv h <;> simp [State.pastSearch, hm] at hs
  | validate => exact validate_pastSearch h
  | requeue => exact requeue_pastSearch h
  | decUnknown code => exact decUnknown_pastSearch h
  | decode =>
    obtain ⟨_, _, _, _, _, _, _, rfl⟩ | ⟨hm, rfl⟩ := decode_inv h
    · exact goto_reading_pastSearch ..
    · exact respond_pastSearch hm
  | emit =>
    obtain ⟨rec, hm, rfl⟩ | ⟨hm, rfl⟩ := emit_inv h
    · simp only [State.pastSearch, hm] at hs
      exact hs
    · exact respond_pastSearch hm
  | decRain | decThermo | decBaro | decUv | decAnemo | decClock =>
    obtain ⟨_, _, _, _, _, _, _, rfl⟩ := routine_inv (by simp [isRoutine]) h
    exact goto_reading_pastSearch ..
  | reserved9 | reservedA | reservedB | reservedC | reservedD | reservedE | reservedF =>
    obtain ⟨hm, rfl⟩ := reserved_inv (by simp [isReserved]) h
    exact respond_pastSearch hm

/-- EXTRACT with an end marker found leads past the search, whether the body is empty or not. -/
theorem endBody_pastSearch (s : State) (sup : Bool) (b f : Nat) : (s.endBody sup b f).pastSearch := by
  by_cases hfb : f = b
  · rw [hfb, State.endBody_empty]
    exact finish_drained ..
  · rw [State.endBody_frame s hfb]
    trivial

/-- After EXTRACT what stood before the body is gone for good: a REQUEUE can put back bytes of the body only. -/
theorem endBody_unread (s : State) (sup : Bool) {b f : Nat} (h : b ≤ f) : (s.endBody sup b f).unread <:+ s.sb.drop b := by
  by_cases hfb : f = b
  · rw [hfb, State.endBody_empty]
    exact List.suffix_refl _
  · rw [State.endBody_frame s hfb, ← slice_append_drop s.sb h]
    exact List.suffix_refl _

/-- A run of micro-operations keeps what every instruction outside the host commands keeps. -/
theorem runMicro_keeps_of_exec {P : State → Prop}
    (hexec : ∀ (i : Instr) (a b : State), isCommand i = false → P a → exec i a = .next b → P b) {n : Nat} (hs : P s)
    (h : runMicro n s = .next t) : P t := by
  refine runMicro_keeps (fun a b ha hab => ?_) n hs h
  cases hc : a.current with
  | none =>
    simp only [microStep, current_eq_none.1 hc] at hab
    cases hab
    exact ha
  | some i => exact hexec i a b (current_not_command hc) ha (microStep_eq hc ▸ hab)

/-- A POLL begins with its EXTRACT (45_pipeline.md R102). -/
theorem poll_of_extract {s1 : State} (hm : s.micro = .idle) (ho : s.ovfSet = false)
    (hx : exec .extract s.startPoll = .next s1) : exec .poll s = runMicro 3 s1 := by
  have hpoll : exec .poll s = runMicro 4 s.startPoll := by
    simp only [exec, execPoll, atPort_idle _ _ hm, ho, Bool.false_eq_true, if_false]
  rw [hpoll]
  exact runMicro_step (by simp) hx

theorem poll_of_no_start (hm : s.micro = .idle) (ho : s.ovfSet = false) (hi : findDelim s.sb 0 = none) :
    exec .poll s = .next (s.startPoll.finish .noStart false) :=
  (poll_of_extract hm ho (extract_of_no_start rfl hi)).trans (runMicro_idle rfl)

theorem poll_of_no_end {i : Nat} (hm : s.micro = .idle) (ho : s.ovfSet = false) (hi : findDelim s.sb 0 = some i)
    (hf : findDelim s.sb (i + 2) = none) : exec .poll s = .next (s.startPoll.finish .noEnd false) :=
  (poll_of_extract hm ho (extract_of_no_end rfl hi hf)).trans (runMicro_idle rfl)

/-- A POLL with both markers found ends with a status of the frame's, and what stood before the body is gone. -/
theorem poll_of_end {i f : Nat} (hm : s.micro = .idle) (ho : s.ovfSet = false) (hi : findDelim s.sb 0 = some i)
    (hf : findDelim s.sb (i + 2) = some f) (h : exec .poll s = .next t) :
    t.drained = false ∧ t.sb <:+ s.sb.drop (i + 2) := by
  have hx : exec .extract s.startPoll = .next (s.startPoll.endBody s.port.suppress (i + 2) f) := extract_of_end rfl hi hf
  have hle : i + 2 ≤ f := (findDelim_eq_some hf).1
  obtain ⟨hpast, hunread⟩ : t.pastSearch ∧ t.unread <:+ s.sb.drop (i + 2) :=
    runMicro_keeps_of_exec (P := fun a => a.pastSearch ∧ a.unread <:+ s.sb.drop (i + 2))
      (fun _ _ _ hc ⟨hp, hu⟩ hab => ⟨exec_pastSearch hc hp hab, (exec_unread_of_not_command hc hab).trans hu⟩)
      ⟨endBody_pastSearch .., endBody_unread s.startPoll _ hle⟩ (poll_of_extract hm ho hx ▸ h)
  simp only [State.pastSearch, poll_ends h] at hpast
  exact ⟨hpast, t.sb_suffix_unread.trans hunread⟩

end Progress

/-- Settles O44: a POLL without a start or an end marker meets the same SB again, any other drains the start marker. -/
theorem pollMakesProgress : Obligations.PollMakesProgress := by
  intro s t ho h
  have hm : s.micro = .idle := (poll_inv h).1
  cases hi : findDelim s.sb 0 with
  | none =>
    cases (poll_of_no_start hm ho hi).symm.trans h
    refine ⟨fun _ => ⟨rfl, poll_of_no_start rfl ho hi⟩, by simp⟩
  | some i =>
    cases hf : findDelim s.sb (i + 2) with
    | none =>
      cases (poll_of_no_end hm ho hi hf).symm.trans h
      refine ⟨fun _ => ⟨rfl, poll_of_no_end rfl ho hi hf⟩, by simp⟩
    | some f =>
      obtain ⟨hd, hsuffix⟩ := poll_of_end hm ho hi hf h
      refine ⟨fun hd' => absurd (hd'.symm.trans hd) (by decide), fun _ => ?_⟩
      have hin : i + 1 < s.sb.length := (findDelim_eq_some hi).2.1.lt
      have hlen : t.sb.length ≤ (s.sb.drop (i + 2)).length := hsuffix.length_le
      rw [List.length_drop] at hlen
      omega

end Sys2Proof.Machine

/-! PROOFS of the statements about the FrameValidator (43_validator.md). VALIDATE does what the verdict of its pseudocode says
(`validate_of_validateRef`), so that a statement about VALIDATE is a computation of the pure `validateRef`. Behind it DECODE and
EMIT end a POLL as its pseudocode answers that verdict (`poll_of_frame`). -/

namespace Sys2Proof.Machine

/-! ## The verdicts of the pseudocode -/

section Verdicts

variable {kind : DeviceKind} {n : Nat} {fr sb : List Byte} {tr : Bool} {p : Params} {room : List Byte → Bool} {code : Byte}

theorem checkRef_of_short (hlt : fr.length < n) :
    checkRef kind n fr tr = .ok (.err (.frameLengthMismatch fr.length n) fr tr) := if_pos hlt

theorem checkRef_of_match (hn : expectedLength kind = some n) (hle : n ≤ fr.length)
    (hw : expectedSum fr = .ok (actualSum fr)) : checkRef kind n fr tr = .ok (.ok kind fr tr) := by
  rw [checkRef_eq fr tr hn, if_neg (Nat.not_lt.2 hle), hw]
  exact congrArg _ (if_neg (not_not.2 rfl))

theorem checkRef_of_mismatch {want : Nat} (hn : expectedLength kind = some n) (hle : n ≤ fr.length)
    (hw : expectedSum fr = .ok want) (hne : want ≠ actualSum fr) :
    checkRef kind n fr tr = .ok (.err (.checksumMismatch want (actualSum fr)) fr tr) := by
  rw [checkRef_eq fr tr hn, if_neg (Nat.not_lt.2 hle), hw]
  exact congrArg _ (if_pos hne)

/-- A frame of its kind's length, or longer, has a trailer to compare (43_validator.md R80). -/
theorem expectedSum_of_known (hn : expectedLength kind = some n) (hle : n ≤ fr.length) :
    ∃ want, expectedSum fr = .ok want ∧ want < 65536 := by
  obtain ⟨hlow, _⟩ := expectedLength_bounds hn
  exact expectedSum_inside (by omega)

/-- The three ways steps 4 and 5 end (43_validator.md R79, R80). -/
theorem known_cases (fr : List Byte) (hn : expectedLength kind = some n) :
    fr.length < n ∨ n ≤ fr.length ∧
      (expectedSum fr = .ok (actualSum fr) ∨ ∃ want, expectedSum fr = .ok want ∧ want ≠ actualSum fr) := by
  by_cases hlt : fr.length < n
  · exact .inl hlt
  · obtain ⟨want, hw, _⟩ := expectedSum_of_known hn (Nat.not_lt.1 hlt)
    refine .inr ⟨Nat.not_lt.1 hlt, ?_⟩
    by_cases he : want = actualSum fr
    · exact .inl (he ▸ hw)
    · exact .inr ⟨want, hw, he⟩

theorem validateRef_of_runt (h : fr[1]? = none) :
    validateRef p room fr sb = .ok (.err (.runtFrame fr.length) fr false, sb) :=
  if_pos (Nat.lt_succ_of_le (List.getElem?_eq_none_iff.1 h))

theorem not_runt_of_code (hc : fr[1]? = some code) : ¬ fr.length < 2 :=
  Nat.not_lt.2 (List.getElem?_eq_some_iff.1 hc).1

theorem validateRef_of_unknown (hc : fr[1]? = some code) (hn : expectedLength (lookup p code) = none) :
    validateRef p room fr sb = .ok (.err (.unknownDevice code.toNat) fr false, sb) := by
  simp [validateRef, not_runt_of_code hc, byteAt_ok hc, bind, Except.bind, hn]

theorem validateRef_of_fit {v : Verdict} (hc : fr[1]? = some code) (hn : expectedLength (lookup p code) = some n)
    (hle : fr.length ≤ n) (hv : checkRef (lookup p code) n fr false = .ok v) :
    validateRef p room fr sb = .ok (v, sb) := by
  simp [validateRef, not_runt_of_code hc, byteAt_ok hc, bind, Except.bind, hn, Nat.not_lt.2 hle, hv]

theorem validateRef_of_long {v : Verdict} (hc : fr[1]? = some code) (hn : expectedLength (lookup p code) = some n)
    (hlt : n < fr.length) (hroom : room (fr.drop n ++ sb) = true)
    (hv : checkRef (lookup p code) n (fr.take n) true = .ok v) :
    validateRef p room fr sb = .ok (v, fr.drop n ++ sb) := by
  simp [validateRef, not_runt_of_code hc, byteAt_ok hc, bind, Except.bind, hn, hlt, hroom, hv]

theorem validateRef_of_full (hc : fr[1]? = some code) (hn : expectedLength (lookup p code) = some n)
    (hlt : n < fr.length) (hroom : room (fr.drop n ++ sb) = false) : validateRef p room fr sb = .ok (.overflow, sb) := by
  simp [validateRef, not_runt_of_code hc, byteAt_ok hc, bind, Except.bind, hn, hlt, hroom]

end Verdicts

/-! ## VALIDATE against its pseudocode -/

section Validate

variable {s : State} {sup : Bool} {fr q : List Byte} {v : Verdict}

/-- Where a POLL stands after a verdict (45_pipeline.md R102): at DECODE, at EMIT with the Invalid record, or at its end. -/
def State.afterVerdict (sup : Bool) (s : State) : Verdict → State
  | .ok kind fr t => { s with micro := .decode kind fr t }
  | .err e fr t =>
    if sup then { s with micro := .idle, status := statusWord e.code t } else { s with micro := .emit (e.record t fr) }
  | .overflow => { s with micro := .idle, status := statusWord .faultOverflow false, ovf := true }

/-- Whatever point the command has reached, the verdict decides where it goes on. -/
theorem completes_afterVerdict_goto {r : Result} (m : Micro) (h : Completes r ((s.goto m).afterVerdict sup v)) :
    Completes r (s.afterVerdict sup v) := by
  obtain ⟨ph, h⟩ := h
  refine ⟨ph, h.trans ?_⟩
  cases v <;> cases sup <;> rfl

theorem report_afterVerdict (s : State) (sup : Bool) (fr : List Byte) (tr : Bool) (e : ValidationError) :
    Completes (.next (s.report sup fr tr e)) (s.afterVerdict sup (.err e fr tr)) := by
  cases sup with
  | true => exact ⟨_, rfl⟩
  | false => exact ⟨_, rfl⟩

/-- An error is reported with its status under SUPPRESS 1, and goes to EMIT as its Invalid record under SUPPRESS 0. -/
theorem completes_of_err {r : Result} {e : ValidationError} {c : StatusCode} {tr : Bool} (hcode : e.code = c)
    (h : Completes r (s.afterVerdict sup (.err e fr tr))) :
    if sup then Completes r { s with micro := .idle, status := statusWord c tr }
    else Completes r { s with micro := .emit (e.record tr fr) } := by
  subst hcode
  cases sup with
  | true => exact h
  | false => exact h

/-- The same of the fields the error decides, SB being as the REQUEUE before it left it (60_exceptions.md R123). -/
theorem next_of_err {r : Result} {e : ValidationError} {c : StatusCode} {tr : Bool} (hcode : e.code = c)
    (h : Completes r (s.afterVerdict sup (.err e fr tr))) :
    ∃ t, r = .next t ∧ t.sb = s.sb ∧
      if sup then t.micro = .idle ∧ t.status = statusWord c tr else t.micro = .emit (e.record tr fr) := by
  subst hcode
  obtain ⟨ph, h⟩ := h
  refine ⟨_, h, ?_⟩
  cases sup with
  | true => exact ⟨rfl, rfl, rfl⟩
  | false => exact ⟨rfl, rfl⟩

/-- Steps 4 and 5 of VALIDATE do what those of the pseudocode do. -/
theorem validateCheck_follows {kind : DeviceKind} {n : Nat} (tr : Bool) (hn : expectedLength kind = some n) :
    ∃ v, checkRef kind n fr tr = .ok v ∧
      ∀ s : State, Completes (validateCheck sup kind fr tr s) (s.afterVerdict sup v) := by
  obtain hlt | ⟨hle, hw | ⟨want, hw, hne⟩⟩ := known_cases fr hn
  · refine ⟨_, checkRef_of_short hlt, fun s => ?_⟩
    simpa only [validateCheck, hn, if_pos hlt] using report_afterVerdict ..
  · refine ⟨_, checkRef_of_match hn hle hw, fun s => ⟨(s.goto (.decode kind fr tr)).phases, ?_⟩⟩
    simp only [validateCheck, hn, if_neg (Nat.not_lt.2 hle), hw, ofRead_ok, ne_eq, not_true, if_false]
    rfl
  · refine ⟨_, checkRef_of_mismatch hn hle hw hne, fun s => ?_⟩
    simpa only [validateCheck, hn, if_neg (Nat.not_lt.2 hle), hw, ofRead_ok, if_pos hne] using report_afterVerdict ..

theorem validate_of_runt (hm : s.micro = .validate sup fr) (h : fr[1]? = none) :
    exec .validate s = .next (s.report sup fr false (.runtFrame fr.length)) := by
  simp only [exec, execValidate, hm, h]

section Coded

variable {code : Byte} {n : Nat} (hm : s.micro = .validate sup fr) (hc : fr[1]? = some code)
include hm hc

theorem validate_of_unknown (hn : expectedLength (lookup s.params code) = none) :
    exec .validate s = exec (.decUnknown code) (s.goto (.unknown sup fr)) := by
  simp only [exec, execValidate, hm, hc, hn]

theorem validate_of_fit (hn : expectedLength (lookup s.params code) = some n) (hle : fr.length ≤ n) :
    exec .validate s =
      validateCheck sup (lookup s.params code) fr false (s.goto (.check sup (lookup s.params code) fr false)) := by
  simp only [exec, execValidate, hm, hc, hn, gt_iff_lt, if_neg (Nat.not_lt.2 hle)]

theorem validate_of_long (hn : expectedLength (lookup s.params code) = some n) (hlt : n < fr.length) :
    exec .validate s = validateTruncate sup (lookup s.params code) n fr s := by
  simp only [exec, execValidate, hm, hc, hn, gt_iff_lt, if_pos hlt]

end Coded

theorem decUnknown_of_code {code : Byte} (hm : s.micro = .unknown sup fr) (hc : fr[1]? = some code) :
    exec (.decUnknown code) s = .next (s.report sup fr false (.unknownDevice code.toNat)) := by
  simp only [exec, execDecUnknown, hm, hc, if_true]

/-- With room the surplus goes back to SB and the cut frame is checked (43_validator.md R78). -/
theorem validateTruncate_of_fits (kind : DeviceKind) (n : Nat) (hf : s.fits (fr.drop n ++ s.sb) = true) :
    validateTruncate sup kind n fr s =
      validateCheck sup kind (fr.take n) true
        ((({ s with sb := fr.drop n ++ s.sb } : State).goto (.requeue sup kind (fr.take n) (fr.drop n))).goto
          (.check sup kind (fr.take n) true)) := by
  have hq := requeue_of_fits (s := s.goto (.requeue sup kind (fr.take n) (fr.drop n))) rfl hf
  simp only [exec] at hq
  simp only [validateTruncate, hq, andThen_next, State.goto_micro]
  rfl

/-- Without room the REQUEUE's overflow is the end of VALIDATE (10_state.md R11, log entry 11). -/
theorem validateTruncate_of_full (kind : DeviceKind) (n : Nat) (hf : s.fits (fr.drop n ++ s.sb) = false) :
    validateTruncate sup kind n fr s =
      .next ((s.goto (.requeue sup kind (fr.take n) (fr.drop n))).setOvf.finish .faultOverflow false) := by
  have hq := requeue_of_full (s := s.goto (.requeue sup kind (fr.take n) (fr.drop n))) rfl hf
  simp only [exec] at hq
  simp only [validateTruncate, hq, andThen_next, State.finish_micro]

/-- VALIDATE does what its pseudocode does, test by test (43_validator.md R75). -/
theorem validate_follows (hm : s.micro = .validate sup fr) :
    ∃ v q, validateRef s.params s.fits fr s.sb = .ok (v, q) ∧
      Completes (exec .validate s) (({ s with sb := q } : State).afterVerdict sup v) := by
  cases hc : fr[1]? with
  | none => exact ⟨_, _, validateRef_of_runt hc, validate_of_runt hm hc ▸ report_afterVerdict ..⟩
  | some code =>
    cases hn : expectedLength (lookup s.params code) with
    | none =>
      refine ⟨_, _, validateRef_of_unknown hc hn, ?_⟩
      rw [validate_of_unknown hm hc hn, decUnknown_of_code rfl hc]
      exact completes_afterVerdict_goto _ (report_afterVerdict ..)
    | some n =>
      by_cases hlt : n < fr.length
      · rw [validate_of_long hm hc hn hlt]
        cases hf : s.fits (fr.drop n ++ s.sb) with
        | true =>
          obtain ⟨v, hv, hx⟩ := validateCheck_follows (sup := sup) (fr := fr.take n) true hn
          refine ⟨v, _, validateRef_of_long hc hn hlt hf hv, ?_⟩
          rw [validateTruncate_of_fits _ _ hf]
          exact completes_afterVerdict_goto _ (completes_afterVerdict_goto _ (hx _))
        | false =>
          refine ⟨_, _, validateRef_of_full hc hn hlt hf, ?_⟩
          rw [validateTruncate_of_full _ _ hf]
          exact ⟨_, rfl⟩
      · obtain ⟨v, hv, hx⟩ := validateCheck_follows (sup := sup) (fr := fr) false hn
        refine ⟨v, _, validateRef_of_fit hc hn (Nat.not_lt.1 hlt) hv, ?_⟩
        rw [validate_of_fit hm hc hn (Nat.not_lt.1 hlt)]
        exact completes_afterVerdict_goto _ (hx _)

/-- The verdict the pseudocode gives is the one VALIDATE acts on. -/
theorem validate_of_validateRef (hm : s.micro = .validate sup fr)
    (h : validateRef s.params s.fits fr s.sb = .ok (v, q)) :
    Completes (exec .validate s) (({ s with sb := q } : State).afterVerdict sup v) := by
  obtain ⟨v', q', h', hx⟩ := validate_follows hm
  cases h'.symm.trans h
  exact hx

end Validate

/-- Settles O16: the pseudocode has a verdict for every frame, and each verdict says what VALIDATE leaves. -/
theorem validateFollowsItsPseudocode : Obligations.ValidateFollowsItsPseudocode := by
  intro s sup fr hm
  obtain ⟨v, q, hv, ph, hx⟩ := validate_follows hm
  refine ⟨v, q, _, hv, hx, ?_⟩
  cases v with
  | ok kind fr' tr => simp [State.afterVerdict, KeepsInputs]
  | err e fr' tr => cases sup <;> simp [State.afterVerdict, KeepsInputs]
  | overflow => simp [State.afterVerdict, KeepsInputs, statusWord, StatusCode.bits]

/-- Settles O17: both ways to DEC_UNKNOWN end in its report. -/
theorem unknownCodesFailWithoutLengthTest : Obligations.UnknownCodesFailWithoutLengthTest := by
  intro s fr code sup hc hu
  have hn : expectedLength (lookup s.params code) = none := by rw [hu]; rfl
  exact ⟨fun hm => next_of_err (c := .errUnknownDevice) rfl (validate_of_validateRef hm (validateRef_of_unknown hc hn)),
    fun hm => next_of_err (c := .errUnknownDevice) rfl (decUnknown_of_code hm hc ▸ report_afterVerdict ..)⟩

/-- Settles O18: the pseudocode's verdict on one byte is RuntFrame. -/
theorem runtFramesFail : Obligations.RuntFramesFail := fun _ _ _ hm =>
  completes_of_err (c := .errRunt) rfl (validate_of_validateRef hm (validateRef_of_runt rfl))

/-- Settles O19: the length test comes before the checksum's. -/
theorem shortFramesFail : Obligations.ShortFramesFail := fun _ _ _ _ _ hm hc hn hlt =>
  completes_of_err (c := .errLength) rfl (validate_of_validateRef hm (validateRef_of_fit hc hn hlt.le (checkRef_of_short hlt)))

/-! ## Sums and trailers -/

section Trailers

variable {kind : DeviceKind} {n : Nat} {fr q : List Byte}

theorem length_append_trailer (q : List Byte) (lo hi : Byte) : (q ++ [lo, hi]).length = q.length + 2 := List.length_append

theorem expectedSum_append (q : List Byte) (lo hi : Byte) : expectedSum (q ++ [lo, hi]) = .ok (lo.toNat + 256 * hi.toNat) :=
  wordAt_ok (by simp) (by simp)

theorem actualSum_append (q : List Byte) (lo hi : Byte) : actualSum (q ++ [lo, hi]) = byteSum q := by simp [actualSum]

/-- The bytes a checksum sums are at most 15 (43_validator.md R81). -/
theorem byteSum_le_of_known (hn : expectedLength kind = some n) (hq : q.length + 2 ≤ n) : byteSum q ≤ 3825 := by
  have hmax : n ≤ 17 := (expectedLength_bounds hn).2
  have hsum : byteSum q ≤ 255 * q.length := byteSum_le q
  omega

/-- The trailer put on a body whose sum is a 16-bit value is that sum again, whatever stands in front of it now. -/
theorem expectedSum_append_trailer (r : List Byte) (h : byteSum q < 65536) :
    expectedSum (r ++ [BitVec.ofNat 8 (byteSum q % 256), BitVec.ofNat 8 (byteSum q / 256)]) = .ok (byteSum q) := by
  have hsplit : byteSum q % 256 % 2 ^ 8 + 256 * (byteSum q / 256 % 2 ^ 8) = byteSum q := by omega
  rw [expectedSum_append, BitVec.toNat_ofNat, BitVec.toNat_ofNat, hsplit]

/-- A body in front of a trailer keeps its bytes. -/
theorem getElem?_append_of_some {i : Nat} {b : Byte} (h : q[i]? = some b) (r : List Byte) : (q ++ r)[i]? = some b := by
  rw [List.getElem?_append_left (List.getElem?_eq_some_iff.1 h).1, h]

theorem xor_bit_ne (b : Byte) {j : Nat} (hj : j < 8) : b ^^^ (1#8 <<< j) ≠ b := by
  intro h
  have hbit := congrArg (BitVec.getLsbD · j) h
  simp [hj] at hbit

/-- The Invalid record of a frame whose checksum differs (45_pipeline.md R105). -/
theorem record_checksumMismatch {want got : Nat} {tr : Bool} (hlen : fr.length = n) :
    (ValidationError.checksumMismatch want got).record tr fr = .invalid .errChecksum tr want got n fr := by
  subst hlen
  rfl

/-- VALIDATE on a frame of a known code and the registry length is its checksum test (43_validator.md R80). -/
theorem validate_of_exact {s : State} {sup : Bool} {code lo hi : Byte} {v : Verdict}
    (hm : s.micro = .validate sup (q ++ [lo, hi])) (hc : q[1]? = some code)
    (hn : expectedLength (lookup s.params code) = some (q.length + 2))
    (hv : checkRef (lookup s.params code) (q.length + 2) (q ++ [lo, hi]) false = .ok v) :
    Completes (exec .validate s) (s.afterVerdict sup v) :=
  validate_of_validateRef hm (validateRef_of_fit (getElem?_append_of_some hc _) hn (length_append_trailer ..).le hv)

end Trailers

/-- Settles O20: the verdict of the checksum test. -/
theorem checksumIsCompared : Obligations.ChecksumIsCompared := by
  intro s sup q code lo hi hm hc hn
  have hlen : (q ++ [lo, hi]).length = q.length + 2 := length_append_trailer ..
  have hw : expectedSum (q ++ [lo, hi]) = .ok (lo.toNat + 256 * hi.toNat) := expectedSum_append ..
  have hsum : actualSum (q ++ [lo, hi]) = (q.map BitVec.toNat).sum := actualSum_append ..
  split
  next he => exact validate_of_exact hm hc hn (checkRef_of_match hn hlen.ge (by rw [hw, hsum, he]))
  next hne =>
    have hv := checkRef_of_mismatch (tr := false) hn hlen.ge hw (by rwa [hsum])
    have hx := completes_of_err (c := .errChecksum) rfl (validate_of_exact hm hc hn hv)
    rwa [record_checksumMismatch hlen, hsum] at hx

/-- Settles O21: the trailer put on the body is its sum. -/
theorem correctTrailerPassesValidation : Obligations.CorrectTrailerPassesValidation := by
  intro s sup q code hc hn hm
  have hsum : byteSum q ≤ 3825 := byteSum_le_of_known hn le_rfl
  have hw : expectedSum (withTrailer q) = .ok (byteSum q) := expectedSum_append_trailer q (by omega)
  have hactual : actualSum (withTrailer q) = byteSum q := actualSum_append ..
  exact validate_of_exact hm hc hn (checkRef_of_match hn (length_append_trailer ..).ge (hw.trans (congrArg _ hactual.symm)))

/-- Settles O22: the flipped byte moves the sum, and the trailer stays. -/
theorem singleBitErrorsAreDetected : Obligations.SingleBitErrorsAreDetected := by
  intro s sup q code b i j hc hn hb hi hj hm
  have hlt : i < q.length := (List.getElem?_eq_some_iff.1 hb).1
  have hsum : byteSum q ≤ 3825 := byteSum_le_of_known hn le_rfl
  have hmoved := byteSum_set q i b (b ^^^ (1#8 <<< j)) hb
  have hflip : (b ^^^ (1#8 <<< j)).toNat ≠ b.toNat := fun h => xor_bit_ne b hj (BitVec.eq_of_toNat_eq h)
  rw [withTrailer, List.set_append_left _ _ hlt] at hm ⊢
  generalize hq : q.set i (b ^^^ (1#8 <<< j)) = q' at *
  have hlen : q'.length = q.length := by rw [← hq, List.length_set]
  have hc' : q'[1]? = some code := by rw [← hq, List.getElem?_set_ne hi, hc]
  rw [← hlen] at hn ⊢
  have hw := expectedSum_append_trailer (q := q) q' (by omega)
  have hv := checkRef_of_mismatch (tr := false) hn (length_append_trailer ..).ge hw
    (by rw [actualSum_append]; omega)
  obtain ⟨t, hx⟩ := next_of_err (c := .errChecksum) rfl (validate_of_exact hm hc' hn hv)
  rw [record_checksumMismatch (length_append_trailer ..)] at hx
  exact ⟨t, _, hx⟩

/-- Settles O23: the surplus is requeued first, and the cut frame's checksum is compared then. -/
theorem oversizedFramesAreCutAndRequeued : Obligations.OversizedFramesAreCutAndRequeued := by
  intro s sup fr code n hm hc hn hlt hf
  have hlen : (fr.take n).length = n := List.length_take_of_le hlt.le
  have hverdict {v : Verdict} (hv : checkRef (lookup s.params code) n (fr.take n) true = .ok v) :=
    validate_of_validateRef hm (validateRef_of_long hc hn hlt hf hv)
  obtain hshort | ⟨_, hw | ⟨want, hw, hne⟩⟩ := known_cases (fr.take n) hn
  · omega
  · obtain ⟨ph, hx⟩ := hverdict (checkRef_of_match hn hlen.ge hw)
    exact ⟨_, hx, rfl, fun _ => rfl, fun h => absurd hw h⟩
  · obtain ⟨t, ht, hsb, hout⟩ :=
      next_of_err (c := .errChecksum) rfl (hverdict (checkRef_of_mismatch hn hlen.ge hw hne))
    refine ⟨t, ht, hsb, fun h => absurd (Except.ok.inj (hw.symm.trans h)) hne, fun _ => ?_⟩
    cases sup with
    | true => exact hout
    | false => exact ⟨want, hout.trans (congrArg _ (record_checksumMismatch hlen))⟩

/-- Settles O24: at most 15 bytes of at most 255. -/
theorem checksumSumsStaySmall : Obligations.ChecksumSumsStaySmall := by
  intro kind fr hn
  obtain ⟨want, hw, hlt⟩ := expectedSum_of_known hn le_rfl
  have hlow : 6 ≤ fr.length := (expectedLength_bounds hn).1
  have hsum : actualSum fr ≤ 3825 := byteSum_le_of_known hn (by rw [List.length_take]; omega)
  exact ⟨want, hw, hlt, hsum, Nat.mod_eq_of_lt (by omega), by omega⟩

/-! ## DECODE has a reading of every validated frame -/

section Readable

variable {fr : List Byte}

/-! Inside a frame every accessor is a function of the bytes it reads, so a decoder whose reads all lie inside has a value. -/

theorem byteAt_of_lt {pos : Nat} (h : pos < fr.length) : byteAt fr pos = .ok fr[pos].toNat :=
  byteAt_ok (List.getElem?_eq_getElem h)

theorem bitsAt_of_lt {pos o n : Nat} (h : pos < fr.length) (hd : 1 ≤ n ∧ o + n ≤ 8) :
    bitsAt fr pos o n = .ok (fr[pos].toNat / 2 ^ o % 2 ^ n) := bitsAt_ok (List.getElem?_eq_getElem h) hd

theorem nibbleAt_low_of_lt {pos : Nat} (h : pos < fr.length) : nibbleAt fr pos 0 = .ok (fr[pos].toNat % 16) :=
  nibbleAt_low (List.getElem?_eq_getElem h)

theorem nibbleAt_high_of_lt {pos : Nat} (h : pos < fr.length) : nibbleAt fr pos 1 = .ok (fr[pos].toNat / 16) :=
  nibbleAt_high (List.getElem?_eq_getElem h)

theorem wordAt_of_lt {pos : Nat} (h : pos + 1 < fr.length) :
    wordAt fr pos = .ok (fr[pos].toNat + 256 * fr[pos + 1].toNat) :=
  wordAt_ok (List.getElem?_eq_getElem (Nat.lt_of_succ_lt h)) (List.getElem?_eq_getElem h)

theorem nibbleRun3_of_lt {pos : Nat} (h : pos + 1 < fr.length) :
    nibbleRun fr pos 0 3 = .ok (fr[pos].toNat + 256 * (fr[pos + 1].toNat % 16)) :=
  nibbleRun_low3 (List.getElem?_eq_getElem (Nat.lt_of_succ_lt h)) (List.getElem?_eq_getElem h)

theorem ok_bind {α β : Type} (a : α) (f : α → Except ReadError β) : (Except.ok a >>= f) = f a := rfl

theorem decodeRain_readable (h : 17 ≤ fr.length) : ∃ r, decodeRain fr = .ok r := by
  simp (disch := omega) only [decodeRain, nibbleAt_high_of_lt, wordAt_of_lt, byteAt_of_lt, ok_bind]
  exact ⟨_, rfl⟩

theorem decodeHeat_readable (dewNeg : Bool) (h : 12 ≤ fr.length) : ∃ o, decodeHeat fr dewNeg = .ok o := by
  simp (disch := omega) only [decodeHeat, bitsAt_of_lt, nibbleRun3_of_lt, ok_bind]
  split <;> exact ⟨_, rfl⟩

theorem decodeThermo_readable (h : 12 ≤ fr.length) : ∃ r, decodeThermo fr = .ok r := by
  simp (disch := omega) only [decodeThermo, bitsAt_of_lt, nibbleAt_low_of_lt, nibbleAt_high_of_lt, nibbleRun3_of_lt,
    byteAt_of_lt, ok_bind]
  obtain ⟨heat, hheat⟩ := decodeHeat_readable (neg (fr[7].toNat / 16)) h
  rw [hheat]
  exact ⟨_, rfl⟩

theorem decodeBaro_readable (h : 8 ≤ fr.length) : ∃ r, decodeBaro fr = .ok r := by
  simp (disch := omega) only [decodeBaro, nibbleRun3_of_lt, nibbleAt_high_of_lt, ok_bind]
  exact ⟨_, rfl⟩

theorem decodeUv_readable (h : 6 ≤ fr.length) : ∃ r, decodeUv fr = .ok r := by
  simp (disch := omega) only [decodeUv, nibbleAt_high_of_lt, byteAt_of_lt, ok_bind]
  exact ⟨_, rfl⟩

theorem decodeChill_readable (h : 11 ≤ fr.length) : ∃ o, decodeChill fr = .ok o := by
  simp (disch := omega) only [decodeChill, bitsAt_of_lt, byteAt_of_lt, ok_bind]
  split <;> exact ⟨_, rfl⟩

theorem decodeAnemo_readable (h : 11 ≤ fr.length) : ∃ r, decodeAnemo fr = .ok r := by
  simp (disch := omega) only [decodeAnemo, nibbleAt_low_of_lt, nibbleAt_high_of_lt, nibbleRun3_of_lt, byteAt_of_lt, ok_bind]
  obtain ⟨chill, hchill⟩ := decodeChill_readable h
  rw [hchill]
  exact ⟨_, rfl⟩

theorem decodeClock_readable (h : 12 ≤ fr.length) : ∃ r, decodeClock fr = .ok r := by
  simp (disch := omega) only [decodeClock, bitsAt_of_lt, byteAt_of_lt, ok_bind]
  exact ⟨_, rfl⟩

theorem map_readable {α : Type} {x : Except ReadError α} {tag : α → Reading} (h : ∃ r, x = .ok r) :
    ∃ rd, x.map (fun r => some (tag r)) = .ok (some rd) := by
  obtain ⟨r, rfl⟩ := h
  exact ⟨tag r, rfl⟩

/-- A validated frame is long enough for every read of its kind's routine (44_decoder.md R83). -/
theorem decodeRef_of_validated {kind : DeviceKind} (h : Validated kind fr) : ∃ rd, decodeRef kind fr = .ok (some rd) := by
  cases kind with
  | rainfall => exact map_readable (decodeRain_readable (Option.some.inj h).le)
  | thermohygrometer => exact map_readable (decodeThermo_readable (Option.some.inj h).le)
  | barometer => exact map_readable (decodeBaro_readable (Option.some.inj h).le)
  | uv => exact map_readable (decodeUv_readable (Option.some.inj h).le)
  | anemometer => exact map_readable (decodeAnemo_readable (Option.some.inj h).le)
  | clock => exact map_readable (decodeClock_readable (Option.some.inj h).le)
  | unknown => cases h

end Readable

/-! ## The end of a POLL behind VALIDATE -/

section Answer

variable {s t : State} {sup : Bool} {v : Verdict}

/-- A routine whose decoder has a reading hands it to EMIT (45_pipeline.md R102). -/
theorem deliver_of_map {α : Type} {kind : DeviceKind} {tr : Bool} {tag : α → Reading} {x : Except ReadError α} {rd : Reading}
    (h : x.map (fun r => some (tag r)) = .ok (some rd)) :
    deliver kind tr tag x s = .next (s.goto (.emit (.reading kind tr rd))) := by
  obtain ⟨r, rfl, rfl⟩ := map_eq_ok h
  rfl

theorem decode_of_decodeRef {kind : DeviceKind} {fr : List Byte} {tr : Bool} {rd : Reading}
    (hm : s.micro = .decode kind fr tr) (h : decodeRef kind fr = .ok (some rd)) :
    exec .decode s = .next ((s.goto (.routine kind fr tr)).goto (.emit (.reading kind tr rd))) := by
  simp only [exec, execDecode, hm]
  cases kind with
  | rainfall | thermohygrometer | barometer | uv | anemometer | clock => exact deliver_of_map h
  | unknown => cases h

/-- Where a POLL stands at EMIT, delivering the record is its end (45_pipeline.md R103). -/
theorem runMicro_of_emit {rec : OutRecord} (n : Nat) (hm : s.micro = .emit rec) :
    runMicro (n + 1) s = .next { s with out := some rec, validPulse := rec.pulse, status := rec.status, micro := .idle } := by
  have hemit : microStep s = .next { s with out := some rec, validPulse := rec.pulse, status := rec.status, micro := .idle } := by
    simp only [microStep, hm, execEmit]
  exact (runMicro_step (by simp [hm]) hemit).trans (runMicro_idle rfl)

/-- Where a POLL stands at DECODE, it ends with the reading delivered. -/
theorem runMicro_of_decode {kind : DeviceKind} {fr : List Byte} {tr : Bool} {rd : Reading} (n : Nat)
    (hm : s.micro = .decode kind fr tr) (h : decodeRef kind fr = .ok (some rd)) :
    Completes (runMicro (n + 2) s) { s with out := some (.reading kind tr rd), validPulse := true,
                                            status := statusWord .reading tr, micro := .idle } := by
  have hdec : microStep s = exec .decode s := microStep_eq (by simp only [State.current, hm])
  have hrun := runMicro_step (n := n + 1) (by simp [hm]) (hdec.trans (decode_of_decodeRef hm h))
  exact ⟨_, hrun.trans (runMicro_of_emit n (State.goto_micro ..))⟩

/-- A frame the verdict hands to DECODE is a validated one. -/
def Verdict.Sound : Verdict → Prop
  | .ok kind fr _ => Validated kind fr
  | _ => True

/-- The annotation T of a verdict (43_validator.md R75). -/
def Verdict.annotation : Verdict → Bool
  | .ok _ _ tr => tr
  | .err _ _ tr => tr
  | .overflow => false

/-- The state in which a POLL has answered. -/
def State.answer (s : State) (a : PollResponse) : State :=
  { s with status := a.status, out := a.out, validPulse := a.validPulse, sb := a.sb, ovf := a.ovf, micro := .idle }

/-- From VALIDATE's verdict on, a POLL does what its pseudocode does with that verdict (45_pipeline.md R102). -/
theorem runMicro_of_verdict {r : Result} (hr : Completes r (s.afterVerdict sup v)) (hv : v.Sound) (hout : s.out = none)
    (hpulse : s.validPulse = false) :
    ∃ a, answerRef sup s.ovf s.sb v = .ok a ∧ Completes (andThen r (runMicro 2)) (s.answer a) := by
  obtain ⟨ph, rfl⟩ := hr
  cases v with
  | ok kind fr tr =>
    obtain ⟨rd, hrd⟩ := decodeRef_of_validated hv
    refine ⟨_, by rw [answerRef, hrd]; rfl, ?_⟩
    exact runMicro_of_decode (s := { s.afterVerdict sup (.ok kind fr tr) with phases := ph }) 0 rfl hrd
  | err e fr tr =>
    cases sup with
    | true => exact ⟨_, rfl, ph, by simp [State.afterVerdict, State.answer, hout, hpulse, runMicro_idle]⟩
    | false => exact ⟨_, rfl, ph, runMicro_of_emit (s := { s.afterVerdict false (.err e fr tr) with phases := ph }) 1 rfl⟩
  | overflow => exact ⟨_, rfl, ph, by simp [State.afterVerdict, State.answer, hout, hpulse, runMicro_idle]⟩

theorem checkRef_sound {kind : DeviceKind} {n : Nat} {fr : List Byte} {tr : Bool} (hn : expectedLength kind = some n)
    (hle : fr.length ≤ n) (h : checkRef kind n fr tr = .ok v) : v.Sound ∧ v.annotation = tr := by
  obtain hlt | ⟨hge, hw | ⟨want, hw, hne⟩⟩ := known_cases fr hn
  · cases (checkRef_of_short hlt).symm.trans h
    exact ⟨trivial, rfl⟩
  · cases (checkRef_of_match hn hge hw).symm.trans h
    exact ⟨hn.trans (congrArg some (hge.antisymm hle)), rfl⟩
  · cases (checkRef_of_mismatch hn hge hw hne).symm.trans h
    exact ⟨trivial, rfl⟩

theorem statusWord_annotation (c : StatusCode) (tr : Bool) : (statusWord c tr).getLsbD 4 = tr := by
  cases c <;> cases tr <;> rfl

/-- POLL's answer leaves SB as VALIDATE did, and tells the annotation (60_exceptions.md R110). -/
theorem answerRef_sb_annotation {ovf : Bool} {sb : List Byte} {a : PollResponse} (h : answerRef sup ovf sb v = .ok a) :
    a.sb = sb ∧ a.status.getLsbD 4 = v.annotation := by
  cases v with
  | ok kind fr tr =>
    obtain ⟨rd, _, h⟩ := bind_eq_ok h
    cases h
    exact ⟨rfl, statusWord_annotation ..⟩
  | err e fr tr =>
    cases h
    exact ⟨rfl, statusWord_annotation ..⟩
  | overflow =>
    cases h
    exact ⟨rfl, statusWord_annotation ..⟩

/-- An EXTRACT that hands a frame over has drained SB and gone to VALIDATE. -/
theorem extract_frame {sup' : Bool} {fr : List Byte} (hm : s.micro = .extract sup) (h : exec .extract s = .next t)
    (hmt : t.micro = .validate sup' fr) : ∃ f, t = (s.drain f).goto (.validate sup fr) := by
  obtain ⟨_, hx⟩ | ⟨i, _, ⟨_, hx⟩ | ⟨f, _, hx⟩⟩ := extract_cases hm <;> cases hx.symm.trans h
  · cases hmt
  · cases hmt
  · by_cases hfb : f = i + 2
    · rw [hfb, State.endBody_empty] at hmt
      cases hmt
    · rw [State.endBody_frame s hfb] at hmt ⊢
      cases hmt
      exact ⟨f, rfl⟩

/-- A POLL whose EXTRACT finds a frame ends with the answer to VALIDATE's verdict on it. -/
theorem poll_of_frame {f : Nat} {fr q : List Byte} (hm : s.micro = .idle) (ho : s.ovfSet = false)
    (hx : exec .extract s.startPoll = .next ((s.startPoll.drain f).goto (.validate sup fr)))
    (hv : validateRef s.params s.fits fr (s.sb.drop f) = .ok (v, q)) (hs : v.Sound) :
    ∃ a, answerRef sup s.ovf q v = .ok a ∧ Completes (exec .poll s) (s.answer a) := by
  have hvalidate := validate_of_validateRef (s := (s.startPoll.drain f).goto (.validate sup fr)) rfl hv
  rw [poll_of_extract hm ho hx, runMicro_succ 2 (by simp), microStep_eq (i := .validate) rfl]
  exact runMicro_of_verdict hvalidate hs rfl rfl

/-- Dropping from the front of a clean sequence, not to its end, leaves a clean one. -/
theorem Clean.drop {q : List Byte} {n : Nat} (h : Clean q) (hn : n < q.length) : Clean (q.drop n) := by
  obtain ⟨hfree, hlast⟩ := h
  exact ⟨fun i hi => hfree _ ((occursAt_drop q n i).1 hi), by rwa [List.getLast?_drop, if_neg (Nat.not_le.2 hn)]⟩

end Answer

/-- Settles O46: the surplus is the tail of a clean body, so the delimiter behind it is the first. -/
theorem requeuedBytesStandBeforeTheNextDelimiter : Obligations.RequeuedBytesStandBeforeTheNextDelimiter := by
  intro s garbage body rest code n hm ho hg hb hsb hc hn hlt hfits
  have hne : body ≠ [] := List.ne_nil_of_length_pos (by omega)
  obtain ⟨s1, hx, hm1, hsb1⟩ :=
    extractTakesTheBodyBetweenDelimiters s.startPoll s.port.suppress garbage body rest rfl hg hb hne hsb
  obtain ⟨f, rfl⟩ := extract_frame rfl hx hm1
  replace hsb1 : s.sb.drop f = [0xFF, 0xFF] ++ rest := hsb1
  have hshorter : (body.drop n ++ s.sb.drop f).length ≤ s.sb.length := by
    rw [hsb1, hsb]
    simp only [List.length_append, List.length_drop]
    omega
  have hroom : s.fits (body.drop n ++ s.sb.drop f) = true := fits_of_length_le hfits hshorter
  obtain ⟨v, hv, _⟩ := validateCheck_follows (sup := s.port.suppress) (fr := body.take n) true hn
  obtain ⟨hsound, hann⟩ := checkRef_sound hn (List.length_take_le ..) hv
  obtain ⟨a, ha, ph, hpoll⟩ := poll_of_frame hm ho hx (validateRef_of_long hc hn hlt hroom hv) hsound
  obtain ⟨hasb, hat⟩ := answerRef_sb_annotation ha
  have hout : a.sb = body.drop n ++ [0xFF, 0xFF] ++ rest := by rw [hasb, hsb1, List.append_assoc]
  have hfind : findDelim a.sb 0 = some (body.length - n) := by
    rw [hout, findDelim_of_clean (hb.drop hlt), List.length_drop]
  exact ⟨_, hpoll, hout, hfind, hat.trans hann⟩

end Sys2Proof.Machine

/-! PROOFS of the statements about the SensorDecoder (44_decoder.md). A routine at its point completes with the reading of the pure
decoder (`runRoutine_completes`), so that a statement about its fields is a computation of `decodeRef` on the bytes of a frame. -/

namespace Sys2Proof.Machine

/-! ## The routines and their readings -/

section Routines

variable {s : State} {kind : DeviceKind} {fr : List Byte} {tr : Bool} {rd : Reading}

/-- A decoder's reading is one of its own kind (44_decoder.md R83). -/
theorem decodeRef_kind (h : decodeRef kind fr = .ok (some rd)) : rd.kind = kind := by
  cases kind with
  | rainfall | thermohygrometer | barometer | uv | anemometer | clock =>
    obtain ⟨_, _, rfl⟩ := map_eq_ok h
    rfl
  | unknown => cases h

/-- The routine of the kind, at its point, hands the reading of the pure decoder to EMIT and changes nothing else
(44_decoder.md R84). -/
theorem runRoutine_completes (hm : s.micro = .routine kind fr tr) (h : decodeRef kind fr = .ok (some rd)) :
    Completes (runRoutine kind s) { s with micro := .emit (.reading kind tr rd) } := by
  have hnext : runRoutine kind s = .next (s.goto (.emit (.reading kind tr rd))) := by
    cases kind with
    | rainfall | thermohygrometer | barometer | uv | anemometer | clock =>
      simp only [runRoutine, execDecRain, execDecThermo, execDecBaro, execDecUv, execDecAnemo, execDecClock, hm]
      exact deliver_of_map h
    | unknown => cases h
  exact ⟨_, hnext⟩

end Routines

/-- Settles O25: a validated frame is long enough for every read of its routine, whose reading DECODE hands on. -/
theorem decodeIsTotalOnValidatedFrames : Obligations.DecodeIsTotalOnValidatedFrames := by
  intro s kind fr tr hm hv
  obtain ⟨rd, hrd⟩ := decodeRef_of_validated hv
  exact ⟨rd, hrd, decodeRef_kind hrd, _, decode_of_decodeRef hm hrd⟩

/-! ## The fields of the readings -/

section Fields

/-! A flag of a reading is a bit, read as 0 or 1 and compared. -/

theorem bit_beq_zero (b : Bool) : (b.toNat == 0) = !b := by cases b <;> rfl

theorem bit_beq_one (b : Bool) : (b.toNat == 1) = b := by cases b <;> rfl

/-- The sign of a sign nibble (44_decoder.md R86). -/
theorem neg_eq_decide (n : Nat) : neg n = decide (n ≠ 0) := (decide_not ..).symm

/-- Twelve bits under a sign nibble (44_decoder.md R86, 30_encoding.md R49). -/
theorem signed_low3 (n : Nat) (b c : Byte) :
    signed (decide (n ≠ 0)) (b.toNat + 256 * (c.toNat % 16)) =
      if n = 0 then (b.toNat + 256 * (c.toNat % 16) : Int) else -(b.toNat + 256 * (c.toNat % 16) : Int) := by
  by_cases h : n = 0 <;> simp [signed, h]

variable {fr : List Byte}

/-- A bit inside a frame (40_bitbuffer.md R58). -/
theorem bit_of_lt {pos i : Nat} (h : pos < fr.length) (hi : i < 8) :
    bitsAt fr pos i 1 = .ok (fr[pos].getLsbD i).toNat := bitsAt_bit (List.getElem?_eq_getElem h) hi

/-- The heat index is absent where bit 5 of byte 9 is 1 (44_decoder.md R88, R94). -/
theorem decodeHeat_of_lt (dewNeg : Bool) (h : 9 < fr.length) :
    decodeHeat fr dewNeg = .ok (if fr[9].getLsbD 5 then none else
      some ⟨fr[8].toNat + 256 * (fr[9].toNat % 16), signed dewNeg (fr[8].toNat + 256 * (fr[9].toNat % 16))⟩) := by
  rw [decodeHeat, bit_of_lt h (by decide), nibbleRun3_of_lt h]
  cases fr[9].getLsbD 5 <;> rfl

/-- The wind chill is absent where bit 5 of byte 8 is 1, and bit 7 is its sign (44_decoder.md R91, R94). -/
theorem decodeChill_of_lt (h : 8 < fr.length) :
    decodeChill fr = .ok (if fr[8].getLsbD 5 then none else
      some ⟨fr[8].getLsbD 7, fr[7].toNat, signed (fr[8].getLsbD 7) fr[7].toNat⟩) := by
  rw [decodeChill, bit_of_lt h (by decide), bit_of_lt h (by decide), byteAt_of_lt (by omega)]
  cases fr[8].getLsbD 5 <;> cases fr[8].getLsbD 7 <;> rfl

end Fields

/-- Settles O26: whole bytes, words and one nibble, which the reads of a frame give by computation. -/
theorem rainfallFields : Obligations.RainfallFields := by
  intro s t b0 b1 b2 b3 b4 b5 b6 b7 b8 b9 b10 b11 b12 b13 b14 b15 b16 hm
  exact runRoutine_completes hm rfl

/-- Settles O27: magnitudes are runs of three nibbles, each under the sign nibble its rule names. -/
theorem thermohygrometerFields : Obligations.ThermohygrometerFields := by
  intro s t b0 b1 b2 b3 b4 b5 b6 b7 b8 b9 b10 b11 hm
  refine runRoutine_completes hm ?_
  simp (disch := simp) only [decodeRef, decodeThermo, bit_of_lt, bitsAt_of_lt (n := 2), nibbleRun3_of_lt,
    decodeHeat_of_lt, ok_bind, bit_beq_zero, pow_zero, Nat.div_one, neg_eq_decide, signed_low3]
  rfl

/-- Settles O28: either pressure is a run of three nibbles. -/
theorem barometerFields : Obligations.BarometerFields := by
  intro s t b0 b1 b2 b3 b4 b5 b6 b7 hm
  refine runRoutine_completes hm ?_
  simp (disch := simp) only [decodeRef, decodeBaro, nibbleRun3_of_lt]
  rfl

/-- Settles O29: a nibble and a byte, which the reads of a frame give by computation. -/
theorem uvFields : Obligations.UvFields := by
  intro s t b0 b1 b2 b3 b4 b5 hm
  exact runRoutine_completes hm rfl

/-- Settles O30: the gust is a run of three nibbles, and byte 8 tells presence and sign of the wind chill. -/
theorem anemometerFields : Obligations.AnemometerFields := by
  intro s t b0 b1 b2 b3 b4 b5 b6 b7 b8 b9 b10 hm
  refine runRoutine_completes hm ?_
  simp (disch := simp) only [decodeRef, decodeAnemo, nibbleRun3_of_lt, decodeChill_of_lt]
  rfl

/-- Settles O31: the four flags are bits of byte 0. -/
theorem clockFields : Obligations.ClockFields := by
  intro s t b0 b1 b2 b3 b4 b5 b6 b7 b8 b9 b10 b11 hm
  refine runRoutine_completes hm ?_
  simp (disch := simp) only [decodeRef, decodeClock, bit_of_lt, ok_bind, bit_beq_zero, bit_beq_one]
  rfl

end Sys2Proof.Machine

/-! PROOFS of the statements about the command port and the sequencer (45_pipeline.md). A POLL answers what its pseudocode answers
(`pollRefinesItsPseudocode`), so that a statement about the answers of a POLL is one about the pure `pollRef`, whose two ways to
an answer `pollRef_cases` names. -/

namespace Sys2Proof.Machine

/-! ## The host commands and the refused codes -/

/-- Settles O1: NOP performed between commands is its status alone. -/
theorem nopReportsOkAndWritesNothing : Obligations.NopReportsOkAndWritesNothing := fun _ hm => ⟨_, nop_of_idle hm⟩

/-- Settles O2: RESET performed between commands is the initial state. -/
theorem resetEmptiesTheBuffer : Obligations.ResetEmptiesTheBuffer := fun _ hm => ⟨_, reset_of_idle hm⟩

/-- Settles O5: each of the twelve instructions has an op code of 4 or more, and every such code is refused. -/
theorem illegalCodesAreRefusedWithoutEffect : Obligations.IllegalCodesAreRefusedWithoutEffect := by
  intro s hm
  have hrefused (op : BitVec 4) (hop : 4 ≤ op.toNat) :
      Completes (exec (decodeOp op) s) { s with status := 10, out := none, validPulse := false } :=
    ⟨_, exec_decodeOp_refused hm hop⟩
  refine ⟨hrefused, fun i hi => ?_⟩
  have hcode : ∃ op : BitVec 4, 4 ≤ op.toNat ∧ decodeOp op = i := by
    revert i
    decide
  obtain ⟨op, hop, rfl⟩ := hcode
  exact hrefused op hop

theorem emit_of_record {s : State} {rec : OutRecord} (hm : s.micro = .emit rec) :
    exec .emit s = .next { s with out := some rec, validPulse := rec.pulse, status := rec.status, micro := .idle } := by
  simp only [exec, execEmit, hm]

/-- Settles O38: pulse and status are those of the record delivered. -/
theorem emitDeliversTheRecord : Obligations.EmitDeliversTheRecord := by
  constructor
  · intro s kind tr rd hm
    have hstatus : (OutRecord.reading kind tr rd).status = if tr then 21 else 5 := by cases tr <;> rfl
    exact ⟨s.phases, by rw [emit_of_record hm, hstatus]; rfl⟩
  · intro s e tr fr hm
    exact ⟨s.phases, emit_of_record hm⟩

/-! ## What a step performs -/

section Steps

variable {s : State}

theorem step_of_current {i : Instr} (hc : s.current = some i) : step s = exec i s := by
  simp only [step, hc]

theorem step_of_no_transaction (hm : s.micro = .idle) (hp : s.pending = []) : step s = .next s := by
  simp only [step, current_eq_none.2 hm, hp]

/-- Between commands the `rst` pin of the next transaction decides before its op code does (70_reset_and_hazards.md R127). -/
theorem step_of_transaction {p : Pins} {rest : List Pins} (hm : s.micro = .idle) (hp : s.pending = p :: rest) :
    step s = if p.rst then .next (s.present p rest).clear else exec (decodeOp p.op) (s.present p rest) := by
  simp only [step, current_eq_none.2 hm, hp]

end Steps

/-- Settles O3: the pin and the command leave the same initial state. -/
theorem rstPinActsAsResetCommand : Obligations.RstPinActsAsResetCommand := by
  intro s p rest hm hp hrst
  have hpin : step s = .next (s.present p rest).clear := by rw [step_of_transaction hm hp, if_pos hrst]
  have hcommand : exec .reset (s.present p rest) = .next (s.present p rest).clear := reset_of_idle hm
  exact ⟨hpin.trans hcommand.symm, _, hpin⟩

/-- Settles O47: a command word's instruction is that of the code on the port. -/
theorem stepRunsTheDecodedInstruction : Obligations.StepRunsTheDecodedInstruction := by
  refine ⟨?_, fun s hm hp => step_of_no_transaction hm hp, fun s i hc => ⟨step_of_current hc, microStep_eq hc⟩⟩
  intro s p rest b i hm hp hrst hop hdecode
  have hi : i = decodeOp p.op := by
    obtain ⟨op, _, hb, rfl⟩ | ⟨hsp, _⟩ | ⟨_, hsp, _⟩ := decode_eq_ok hdecode
    · obtain rfl : b = op.setWidth 8 := (List.cons.inj hb).1
      rw [← hop, BitVec.setWidth_setWidth_of_le _ (by decide), BitVec.setWidth_eq]
    · cases hsp
    · cases hsp
  rw [step_of_transaction hm hp, hrst, hi]
  rfl

/-! ## The readings' widths -/

/-- Settles O32: a validated frame has a reading, and every reading fits. -/
theorem readingsFitTheirWidths : Obligations.ReadingsFitTheirWidths := by
  intro kind fr hv
  obtain ⟨rd, hrd⟩ := decodeRef_of_validated hv
  exact ⟨rd, hrd, decodeRef_fits hrd⟩

/-! ## The answers of the pseudocode -/

section Answers

variable {p : Params} {room : List Byte → Bool} {sup ovf tr : Bool} {fr sb q : List Byte} {v : Verdict} {r : PollResponse}
  {kind : DeviceKind} {n i f : Nat}

/-- A verdict the tests of VALIDATE give: a frame passes as a validated one, and T accompanies no error but the checksum's
(43_validator.md R78 to R80). The overflow is not among them. -/
def Verdict.Tested : Verdict → Prop
  | .ok kind fr _ => Validated kind fr
  | .err e _ tr => tr = true → e.code = .errChecksum
  | .overflow => False

theorem Verdict.Tested.sound (h : v.Tested) : v.Sound := by
  cases v with
  | ok kind fr tr => exact h
  | err e fr tr => trivial
  | overflow => trivial

/-- Steps 4 and 5 on a frame cut to its kind's length where T is set, and no longer where it is not. -/
theorem checkRef_tested (hn : expectedLength kind = some n) (hle : fr.length ≤ n) (hcut : tr = true → fr.length = n)
    (h : checkRef kind n fr tr = .ok v) : v.Tested := by
  obtain hlt | ⟨hge, hw | ⟨want, hw, hne⟩⟩ := known_cases fr hn
  · cases (checkRef_of_short hlt).symm.trans h
    exact fun ht => absurd (hcut ht) hlt.ne
  · cases (checkRef_of_match hn hge hw).symm.trans h
    exact hn.trans (congrArg some (hge.antisymm hle))
  · cases (checkRef_of_mismatch hn hge hw hne).symm.trans h
    exact fun _ => rfl

/-- What VALIDATE's verdict can be: that of its tests, or the overflow of a REQUEUE without room (43_validator.md R75,
10_state.md R11). -/
theorem validateRef_inv (h : validateRef p room fr sb = .ok (v, q)) :
    v.Tested ∨ v = .overflow ∧ ∃ n, room (fr.drop n ++ sb) = false := by
  cases hc : fr[1]? with
  | none =>
    cases (validateRef_of_runt hc).symm.trans h
    exact .inl (by simp [Verdict.Tested])
  | some code =>
    cases hn : expectedLength (lookup p code) with
    | none =>
      cases (validateRef_of_unknown hc hn).symm.trans h
      exact .inl (by simp [Verdict.Tested])
    | some n =>
      by_cases hlt : n < fr.length
      · cases hroom : room (fr.drop n ++ sb) with
        | true =>
          obtain ⟨v', hv', _⟩ := validateCheck_follows (sup := true) (fr := fr.take n) true hn
          cases (validateRef_of_long hc hn hlt hroom hv').symm.trans h
          exact .inl (checkRef_tested hn (List.length_take_le ..) (fun _ => List.length_take_of_le hlt.le) hv')
        | false =>
          cases (validateRef_of_full hc hn hlt hroom).symm.trans h
          exact .inr ⟨rfl, n, hroom⟩
      · obtain ⟨v', hv', _⟩ := validateCheck_follows (sup := true) (fr := fr) false hn
        cases (validateRef_of_fit hc hn (Nat.not_lt.1 hlt) hv').symm.trans h
        exact .inl (checkRef_tested hn (Nat.not_lt.1 hlt) (by simp) hv')

/-- The answer of a POLL whose EXTRACT gave no frame (45_pipeline.md R102). -/
def PollResponse.withoutFrame (code : StatusCode) (sb : List Byte) (ovf : Bool) : PollResponse :=
  { status := statusWord code false, out := none, validPulse := false, sb := sb, ovf := ovf }

theorem pollRef_of_no_start (hi : findDelim sb 0 = none) :
    pollRef p room sup ovf sb = .ok (.withoutFrame .noStart sb ovf) := by
  simp only [pollRef, extractRef, hi, PollResponse.withoutFrame]

theorem pollRef_of_no_end (hi : findDelim sb 0 = some i) (hf : findDelim sb (i + 2) = none) :
    pollRef p room sup ovf sb = .ok (.withoutFrame .noEnd sb ovf) := by
  simp only [pollRef, extractRef, hi, hf, PollResponse.withoutFrame]

theorem pollRef_of_empty (hi : findDelim sb 0 = some i) (hf : findDelim sb (i + 2) = some (i + 2)) :
    pollRef p room sup ovf sb = .ok (.withoutFrame .emptyFrame (sb.drop (i + 2)) ovf) := by
  simp only [pollRef, extractRef, hi, hf, if_true, PollResponse.withoutFrame]

theorem pollRef_of_frame (hi : findDelim sb 0 = some i) (hf : findDelim sb (i + 2) = some f) (hfb : f ≠ i + 2) :
    pollRef p room sup ovf sb =
      validateRef p room (slice sb (i + 2) f) (sb.drop f) >>= fun vs => answerRef sup ovf vs.2 vs.1 := by
  simp only [pollRef, extractRef, hi, hf, if_neg hfb]

/-- The two ways to an answer, the same under both values of SUPPRESS: EXTRACT's status alone, or the answer to VALIDATE's
verdict on a frame taken from SB (45_pipeline.md R102). -/
theorem pollRef_cases (p : Params) (room : List Byte → Bool) (ovf : Bool) (sb : List Byte) :
    (∃ c q, (c = .noStart ∨ c = .noEnd ∨ c = .emptyFrame) ∧ ∀ sup, pollRef p room sup ovf sb = .ok (.withoutFrame c q ovf)) ∨
    ∃ fr q, fr ++ q <:+ sb ∧
      ∀ sup, pollRef p room sup ovf sb = validateRef p room fr q >>= fun vs => answerRef sup ovf vs.2 vs.1 := by
  cases hi : findDelim sb 0 with
  | none => exact .inl ⟨_, _, .inl rfl, fun _ => pollRef_of_no_start hi⟩
  | some i =>
    cases hf : findDelim sb (i + 2) with
    | none => exact .inl ⟨_, _, .inr (.inl rfl), fun _ => pollRef_of_no_end hi hf⟩
    | some f =>
      by_cases hfb : f = i + 2
      · exact .inl ⟨_, _, .inr (.inr rfl), fun _ => pollRef_of_empty hi (hfb ▸ hf)⟩
      · refine .inr ⟨slice sb (i + 2) f, sb.drop f, ?_, fun _ => pollRef_of_frame hi hf hfb⟩
        rw [slice_append_drop sb (findDelim_eq_some hf).1]
        exact List.drop_suffix ..

end Answers

/-! ## POLL against its pseudocode -/

/-- Settles O39, by the cases of EXTRACT: where there is no frame the command ends there, and what follows a frame is the answer
to VALIDATE's verdict. -/
theorem pollRefinesItsPseudocode : Obligations.PollRefinesItsPseudocode := by
  intro s hm ho
  obtain ⟨hi, _⟩ | ⟨i, hi, ⟨hf, _⟩ | ⟨f, hf, hx⟩⟩ := extract_cases (s := s.startPoll) rfl
  · exact ⟨_, pollRef_of_no_start hi, _, poll_of_no_start hm ho hi⟩
  · exact ⟨_, pollRef_of_no_end hi hf, _, poll_of_no_end hm ho hi hf⟩
  · by_cases hfb : f = i + 2
    · subst hfb
      rw [State.endBody_empty] at hx
      exact ⟨_, pollRef_of_empty hi hf, _, (poll_of_extract hm ho hx).trans (runMicro_idle rfl)⟩
    · rw [State.endBody_frame _ hfb] at hx
      obtain ⟨v, q, hv, _⟩ := validate_follows
        (s := (s.startPoll.drain f).goto (.validate s.port.suppress (slice s.sb (i + 2) f))) rfl
      have hsound : v.Sound := by
        obtain htested | ⟨rfl, _⟩ := validateRef_inv hv
        · exact htested.sound
        · trivial
      obtain ⟨a, ha, hpoll⟩ := poll_of_frame hm ho hx hv hsound
      exact ⟨a, (pollRef_of_frame hi hf hfb).trans (hv ▸ ha), hpoll⟩

/-- A POLL with OVF not set ends as the pseudocode answers. -/
theorem poll_answer {s t : State} (ho : s.ovfSet = false) (h : exec .poll s = .next t) :
    ∃ r ph, pollRef s.params s.fits s.port.suppress s.ovf s.sb = .ok r ∧ t = { s.answer r with phases := ph } := by
  obtain ⟨r, hr, ph, hx⟩ := pollRefinesItsPseudocode s (poll_inv h).1 ho
  cases hx.symm.trans h
  exact ⟨r, ph, hr, rfl⟩

/-! ## Status and pulse -/

section Reports

variable {p : Params} {room : List Byte → Bool} {sup ovf : Bool} {sb : List Byte} {r : PollResponse} {st : BitVec 5} {pulse : Bool}

/-- What a POLL reports: a code of the table, T with two of them only, and the pulse with one (45_pipeline.md R106,
60_exceptions.md R110). -/
def Reported (st : BitVec 5) (pulse : Bool) : Prop :=
  ∃ code tr, st = statusWord code tr ∧ (tr = true → code = .reading ∨ code = .errChecksum) ∧
    (pulse = true ↔ code = .reading)

/-- A POLL that delivers no Reading gives no pulse. -/
theorem reported_without_pulse {code : StatusCode} {tr : Bool} (hc : code ≠ .reading) (ht : tr = true → code = .errChecksum) :
    Reported (statusWord code tr) false :=
  ⟨code, tr, rfl, fun h => .inr (ht h), by simp [hc]⟩

theorem answerRef_reported {v : Verdict} (hv : v.Tested ∨ v = .overflow) (h : answerRef sup ovf sb v = .ok r) :
    Reported r.status r.validPulse := by
  cases v with
  | ok kind fr tr =>
    obtain ⟨rd, _, h⟩ := bind_eq_ok h
    cases h
    exact ⟨.reading, tr, rfl, fun _ => .inl rfl, by simp⟩
  | err e fr tr =>
    cases h
    obtain htested | hov := hv
    · exact reported_without_pulse e.code_ne_reading htested
    · cases hov
  | overflow =>
    cases h
    exact reported_without_pulse (by decide) (by simp)

theorem pollRef_reported (h : pollRef p room sup ovf sb = .ok r) : Reported r.status r.validPulse := by
  obtain ⟨c, q, hc, hpoll⟩ | ⟨fr, q, _, hpoll⟩ := pollRef_cases p room ovf sb <;> rw [hpoll sup] at h
  · cases h
    exact reported_without_pulse (by rcases hc with rfl | rfl | rfl <;> decide) (by simp)
  · obtain ⟨⟨v, q'⟩, hv, ha⟩ := bind_eq_ok h
    exact answerRef_reported ((validateRef_inv hv).imp_right And.left) ha

/-- The reports read on the status word. -/
theorem Reported.bits (h : Reported st pulse) :
    (pulse = true ↔ st.setWidth 4 = 5#4) ∧ (st.getLsbD 4 = true → st.setWidth 4 = 5#4 ∨ st.setWidth 4 = 9#4) ∧
      st.setWidth 4 ≤ 11#4 := by
  obtain ⟨code, tr, rfl, ht, hp⟩ := h
  rw [statusWord_code, statusWord_annotation, hp]
  refine ⟨?_, fun htr => ?_, ?_⟩
  · cases code <;> decide
  · obtain rfl | rfl := ht htr
    · exact .inl rfl
    · exact .inr rfl
  · cases code <;> decide

end Reports

/-- Settles O41: the overflow status and every answer of the pseudocode are reports. -/
theorem validPulseMarksReadings : Obligations.ValidPulseMarksReadings := by
  intro s t h
  have hreported : Reported t.status t.validPulse := by
    cases ho : s.ovfSet with
    | true =>
      cases (poll_of_ovfSet (poll_inv h).1 ho).symm.trans h
      exact reported_without_pulse (by decide) (by simp)
    | false =>
      obtain ⟨r, _, hr, rfl⟩ := poll_answer ho h
      exact pollRef_reported hr
  exact hreported.bits

/-! ## SUPPRESS -/

section Suppress

variable {p : Params} {room : List Byte → Bool} {ovf : Bool} {sb : List Byte} {r1 r0 : PollResponse}

/-- The answer `r1` differs from `r0` at most in a record other than a Reading, which it does not deliver (45_pipeline.md R103). -/
def PollResponse.Hides (r1 r0 : PollResponse) : Prop :=
  r1.status = r0.status ∧ r1.validPulse = r0.validPulse ∧ r1.sb = r0.sb ∧ r1.ovf = r0.ovf ∧
    (r0.validPulse = true → r1.out = r0.out) ∧ (r0.validPulse = false → r1.out = none)

theorem answerRef_hides {v : Verdict} (h1 : answerRef true ovf sb v = .ok r1) (h0 : answerRef false ovf sb v = .ok r0) :
    r1.Hides r0 := by
  cases v with
  | ok kind fr tr =>
    obtain rfl : r1 = r0 := Except.ok.inj (h1.symm.trans h0)
    obtain ⟨rd, _, h1⟩ := bind_eq_ok h1
    cases h1
    simp [PollResponse.Hides]
  | err e fr tr =>
    cases h1
    cases h0
    simp [PollResponse.Hides]
  | overflow =>
    cases h1
    cases h0
    simp [PollResponse.Hides]

/-- SUPPRESS is read after the verdict only, which is the same under both values. -/
theorem pollRef_hides (h1 : pollRef p room true ovf sb = .ok r1) (h0 : pollRef p room false ovf sb = .ok r0) : r1.Hides r0 := by
  obtain ⟨c, q, _, hpoll⟩ | ⟨fr, q, _, hpoll⟩ := pollRef_cases p room ovf sb <;> rw [hpoll] at h1 h0
  · cases h1
    cases h0
    simp [PollResponse.Hides, PollResponse.withoutFrame]
  · obtain ⟨vs1, hv1, h1⟩ := bind_eq_ok h1
    obtain ⟨vs0, hv0, h0⟩ := bind_eq_ok h0
    obtain rfl : vs1 = vs0 := Except.ok.inj (hv1.symm.trans hv0)
    exact answerRef_hides h1 h0

end Suppress

/-- Settles O42: the two POLLs end as the pseudocode answers under the two values of SUPPRESS. -/
theorem suppressHidesOnlyInvalidRecords : Obligations.SuppressHidesOnlyInvalidRecords := by
  intro s s1 s0 h1 h0
  cases ho : s.ovfSet with
  | true =>
    have hm : s.micro = .idle := (poll_inv h1).1
    cases (poll_of_ovfSet (s := { s with port := cmdPoll true }) hm ho).symm.trans h1
    cases (poll_of_ovfSet (s := { s with port := cmdPoll false }) hm ho).symm.trans h0
    simp
  | false =>
    obtain ⟨r1, _, hr1, rfl⟩ := poll_answer (s := { s with port := cmdPoll true }) ho h1
    obtain ⟨r0, _, hr0, rfl⟩ := poll_answer (s := { s with port := cmdPoll false }) ho h0
    exact pollRef_hides hr1 hr0

/-! ## PUMP -/

section Pump

variable {p : Params} {room : List Byte → Bool} {sup ovf : Bool} {sb : List Byte} {r : PollResponse} {s t : State}

theorem answerRef_ovf {v : Verdict} (hv : v.Tested) (h : answerRef sup ovf sb v = .ok r) : r.ovf = ovf := by
  cases v with
  | ok kind fr tr =>
    obtain ⟨rd, _, h⟩ := bind_eq_ok h
    cases h
    rfl
  | err e fr tr =>
    cases h
    rfl
  | overflow => cases hv

/-- Where every suffix of SB has room no REQUEUE overflows: what it would leave in SB stood at SB's end before. -/
theorem pollRef_ovf (hroom : ∀ q, q <:+ sb → room q = true) (h : pollRef p room sup ovf sb = .ok r) : r.ovf = ovf := by
  obtain ⟨c, q, _, hpoll⟩ | ⟨fr, q, hq, hpoll⟩ := pollRef_cases p room ovf sb <;> rw [hpoll sup] at h
  · cases h
    rfl
  · obtain ⟨⟨v, q'⟩, hv, ha⟩ := bind_eq_ok h
    obtain htested | ⟨_, n, hfull⟩ := validateRef_inv hv
    · exact answerRef_ovf htested ha
    · have hcut : fr.drop n ++ q <:+ fr ++ q := ⟨fr.take n, by rw [← List.append_assoc, List.take_append_drop]⟩
      rw [hroom _ (hcut.trans hq)] at hfull
      cases hfull

/-- A state in which PUMP's next POLL can be issued: between commands, OVF not set, SB within BUF_CAP. -/
def Pumpable (s : State) : Prop := s.micro = .idle ∧ s.ovfSet = false ∧ s.fits s.sb = true

/-- A POLL leaves no more in SB than stood there, so it sets no OVF under which the next would do nothing (10_state.md R11). -/
theorem poll_keeps_pumpable (hs : Pumpable s) (h : exec .poll s = .next t) : Pumpable t := by
  obtain ⟨_, ho, hf⟩ := hs
  have hm : t.micro = .idle := poll_ends h
  have hlen : t.sb.length ≤ s.sb.length := by
    obtain ⟨d, hd⟩ := pollConsumesFromTheFrontOnly s t h
    rw [hd, List.length_drop]
    exact Nat.sub_le ..
  obtain ⟨r, _, hr, rfl⟩ := poll_answer ho h
  have hovf : r.ovf = s.ovf := pollRef_ovf (fun q hq => fits_of_length_le hf hq.length_le) hr
  exact ⟨hm, by rwa [State.ovfSet, State.answer, hovf], fits_of_length_le hf hlen⟩

/-- A POLL ends, leaves the next one possible, and drains SB or shortens it by two bytes (42_synchronizer.md R73). -/
theorem poll_of_pumpable (hs : Pumpable s) :
    ∃ t, exec .poll s = .next t ∧ Pumpable t ∧ (t.drained = false → t.sb.length + 2 ≤ s.sb.length) := by
  obtain ⟨hm, ho, hf⟩ := hs
  obtain ⟨_, _, _, h⟩ := pollRefinesItsPseudocode s hm ho
  exact ⟨_, h, poll_keeps_pumpable ⟨hm, ho, hf⟩ h, (pollMakesProgress _ _ ho h).2⟩

/-- The pins PUMP presents change nothing of this. -/
theorem pollOnce_of_pumpable (suppress : Bool) (hs : Pumpable s) :
    ∃ t, pollOnce suppress s = .next t ∧ Pumpable t ∧ (t.drained = false → t.sb.length + 2 ≤ s.sb.length) :=
  poll_of_pumpable (s := { s with port := cmdPoll suppress }) hs

/-- PUMP ends within `n` POLLs where SB holds fewer than `2 * n` bytes. -/
theorem pump_ends (suppress : Bool) : ∀ (n : Nat) {s : State}, Pumpable s → s.sb.length < 2 * n →
    ∃ rs t, pump suppress n s = some (rs, t) ∧ t.drained = true ∧ t.micro = .idle
  | 0, _, _, hlen => absurd hlen (Nat.not_lt_zero _)
  | n + 1, s, hs, hlen => by
    obtain ⟨t, hpoll, ht, hshorter⟩ := pollOnce_of_pumpable suppress hs
    cases hd : t.drained with
    | true => exact ⟨[t.response], t, by simp [pump, hpoll, hd], hd, ht.1⟩
    | false =>
      have hlt : t.sb.length < 2 * n := by
        have := hshorter hd
        omega
      obtain ⟨rs, u, hpump, hu⟩ := pump_ends suppress n ht hlt
      exact ⟨t.response :: rs, u, by simp [pump, hpoll, hd, hpump], hu⟩

end Pump

/-- Settles O45: half the length of SB, rounded down, and one more POLL are enough. -/
theorem pumpTerminates : Obligations.PumpTerminates := fun s suppress hm ho hf =>
  pump_ends suppress _ ⟨hm, ho, hf⟩ (by omega)

end Sys2Proof.Machine

/-! PROOFS of the statement about the order of the micro-operations (46_laws.md R151 (b)). Each point of a POLL has the sequences of
`phase` values that can lead to it (`Micro.chains`); that the values recorded are one of them is kept by every micro-operation. -/

namespace Sys2Proof.Machine

/-! ## The chain of the micro-operations -/

section Chain

variable {s t : State} {m p : Micro} {i : Instr} {sup tr : Bool} {kind : DeviceKind} {fr : List Byte}

/-- The sequences of `phase` values that can lead to a point of a POLL; at `idle`, those of a whole POLL. -/
@[simp] def Micro.chains : Micro → List (List (BitVec 4))
  | .idle => [[4], [4, 5], [4, 5, 8], [4, 5, 7, 8], [4, 5, 6], [4, 5, 6, 5], [4, 5, 6, 5, 8], [4, 5, 6, 5, 7, 8]]
  | .extract _ | .seekStart _ | .seekEnd _ _ => [[4]]
  | .validate _ _ | .unknown _ _ => [[4, 5]]
  | .requeue _ _ _ _ => [[4, 5, 6]]
  | .check _ _ _ _ => [[4, 5], [4, 5, 6, 5]]
  | .decode _ _ _ | .routine _ _ _ => [[4, 5, 7], [4, 5, 6, 5, 7]]
  | .emit _ => [[4, 5, 8], [4, 5, 7, 8], [4, 5, 6, 5, 8], [4, 5, 6, 5, 7, 8]]

/-- The chain goes from `p` to `m`: what leads to `p` leads to `m`, with the op code of `m` recorded where it is another one. -/
@[simp] def Micro.LeadsTo (p m : Micro) : Prop :=
  ∀ c ∈ p.chains, (if p.phase = m.phase then c else c ++ [m.phase]) ∈ m.chains

/-- The chain may end at `p`: what leads to `p` is a whole POLL. -/
@[simp] def Micro.MayEnd (p : Micro) : Prop := ∀ c ∈ p.chains, c ∈ Micro.idle.chains

/-- From VALIDATE, its REQUEUE aside, the chain ends or goes on to EMIT or to DECODE. -/
theorem Micro.leads_of_validating (hv : p.phase = 5) :
    p.MayEnd ∧ (∀ rec, p.LeadsTo (.emit rec)) ∧ ∀ kind fr tr, p.LeadsTo (.decode kind fr tr) := by
  cases p with
  | validate | unknown | check => simp [Micro.phase]
  | idle | extract | seekStart | seekEnd | requeue | decode | routine | emit => simp [Micro.phase] at hv

/-- The `phase` values recorded are a sequence that leads to where the block stands. -/
def State.OnChain (s : State) : Prop := s.phases ∈ s.micro.chains

theorem goto_onChain (hs : s.OnChain) (hm : s.micro = p) (hl : p.LeadsTo m) : (s.goto m).OnChain := by
  subst hm
  have hmem := hl _ hs
  by_cases hp : s.micro.phase = m.phase
  · rwa [if_pos hp, ← s.goto_phases_same m hp] at hmem
  · rwa [if_neg hp, ← s.goto_phases_new m hp] at hmem

theorem finish_onChain (code : StatusCode) (hs : s.OnChain) (hm : s.micro = p) (he : p.MayEnd) : (s.finish code tr).OnChain := by
  subst hm
  exact he _ hs

theorem report_onChain (e : ValidationError) (hs : s.OnChain) (hv : s.micro.phase = 5) : (s.report sup fr tr e).OnChain := by
  obtain ⟨hend, hemit, _⟩ := Micro.leads_of_validating hv
  cases sup with
  | true => exact finish_onChain _ hs rfl hend
  | false => exact goto_onChain hs rfl (hemit _)

theorem delim_onChain (hs : s.OnChain) (h : exec .delim s = .next t) : t.OnChain := by
  obtain ⟨_, hm, ⟨_, rfl⟩ | ⟨_, _, rfl⟩⟩ | ⟨_, _, hm, ⟨_, rfl⟩ | ⟨_, _, ⟨_, rfl⟩ | ⟨_, rfl⟩⟩⟩ := delim_inv h
  · exact finish_onChain _ hs hm (by simp)
  · exact goto_onChain hs hm (by simp [Micro.phase])
  · exact finish_onChain _ hs hm (by simp)
  · exact finish_onChain (s := s.drain _) _ hs hm (by simp)
  · exact goto_onChain (s := s.drain _) hs hm (by simp [Micro.phase])

theorem extract_onChain (hs : s.OnChain) (hne : s.micro ≠ .idle) (h : exec .extract s = .next t) : t.OnChain := by
  obtain ⟨sup, s1, hm, h1, hlast⟩ | ⟨hm, _⟩ := extract_inv h
  · have hs1 : s1.OnChain := delim_onChain (goto_onChain hs hm (by simp [Micro.phase])) h1
    obtain ⟨_, rfl⟩ | ⟨_, h2⟩ := hlast
    · exact hs1
    · exact delim_onChain hs1 h2
  · exact absurd hm hne

theorem requeue_onChain (hs : s.OnChain) (hne : s.micro ≠ .idle) (h : exec .requeue s = .next t) : t.OnChain := by
  obtain ⟨_, _, _, extra, hm, ⟨_, rfl⟩ | ⟨_, _, rfl⟩⟩ | ⟨hm, _⟩ := requeue_inv h
  · exact goto_onChain (s := { s with sb := extra ++ s.sb }) hs hm (by simp [Micro.phase])
  · exact finish_onChain (s := s.setOvf) _ hs hm (by simp)
  · exact absurd hm hne

theorem decUnknown_onChain {code : Byte} (hs : s.OnChain) (h : exec (.decUnknown code) s = .next t) : t.OnChain := by
  obtain ⟨_, _, hm, _, rfl⟩ := decUnknown_inv h
  exact report_onChain _ hs (congrArg Micro.phase hm)

theorem validateCheck_onChain (hs : s.OnChain) (hv : s.micro.phase = 5) (h : validateCheck sup kind fr tr s = .next t) :
    t.OnChain := by
  obtain ⟨_, _, ⟨_, rfl⟩ | ⟨_, _, _, ⟨_, rfl⟩ | ⟨_, rfl⟩⟩⟩ := validateCheck_inv h
  · exact report_onChain _ hs hv
  · exact report_onChain _ hs hv
  · obtain ⟨_, _, hdecode⟩ := Micro.leads_of_validating hv
    exact goto_onChain hs rfl (hdecode _ _ _)

theorem validate_onChain (hs : s.OnChain) (hne : s.micro ≠ .idle) (h : exec .validate s = .next t) : t.OnChain := by
  obtain ⟨_, _, hm, ⟨_, rfl⟩ | ⟨_, _, ⟨_, hu⟩ | ⟨_, _, ⟨_, s1, hq, hlast⟩ | ⟨_, hc⟩⟩⟩⟩ | ⟨_, _, _, _, hm, hc⟩ | ⟨hm, _⟩ :=
    validate_inv h
  · exact report_onChain _ hs (congrArg Micro.phase hm)
  · exact decUnknown_onChain (goto_onChain hs hm (by simp [Micro.phase])) hu
  · have hs1 : s1.OnChain := requeue_onChain (goto_onChain hs hm (by simp [Micro.phase])) (by simp) hq
    obtain ⟨_, rfl⟩ | ⟨hm1, hc⟩ := hlast
    · exact hs1
    · exact validateCheck_onChain hs1 (congrArg Micro.phase hm1) hc
  · exact validateCheck_onChain (goto_onChain hs hm (by simp [Micro.phase])) rfl hc
  · exact validateCheck_onChain hs (congrArg Micro.phase hm) hc
  · exact absurd hm hne

theorem routine_onChain (hi : isRoutine i) (hs : s.OnChain) (h : exec i s = .next t) : t.OnChain := by
  obtain ⟨_, _, _, _, hm, _, _, rfl⟩ := routine_inv hi h
  exact goto_onChain hs hm (by simp [Micro.phase])

theorem decode_onChain (hs : s.OnChain) (hne : s.micro ≠ .idle) (h : exec .decode s = .next t) : t.OnChain := by
  obtain ⟨kind, fr, tr, _, hm, _, _, rfl⟩ | ⟨hm, _⟩ := decode_inv h
  · have hroutine : (s.goto (.routine kind fr tr)).OnChain := goto_onChain hs hm (by simp [Micro.phase])
    exact goto_onChain hroutine rfl (by simp [Micro.phase])
  · exact absurd hm hne

theorem emit_onChain (hs : s.OnChain) (hne : s.micro ≠ .idle) (h : exec .emit s = .next t) : t.OnChain := by
  obtain ⟨rec, hm, rfl⟩ | ⟨hm, _⟩ := emit_inv h
  · have hend : (Micro.emit rec).MayEnd := by simp
    exact hend _ (hm ▸ hs)
  · exact absurd hm hne

/-- No micro-operation of a command in progress leaves the chain. -/
theorem exec_onChain (hi : isCommand i = false) (hne : s.micro ≠ .idle) (hs : s.OnChain) (h : exec i s = .next t) : t.OnChain := by
  cases i with
  | nop | append | poll | reset => cases hi
  | extract => exact extract_onChain hs hne h
  | delim => exact delim_onChain hs h
  | validate => exact validate_onChain hs hne h
  | requeue => exact requeue_onChain hs hne h
  | decUnknown code => exact decUnknown_onChain hs h
  | decode => exact decode_onChain hs hne h
  | emit => exact emit_onChain hs hne h
  | decRain | decThermo | decBaro | decUv | decAnemo | decClock => exact routine_onChain (by simp [isRoutine]) hs h
  | reserved9 | reservedA | reservedB | reservedC | reservedD | reservedE | reservedF =>
    exact absurd (reserved_inv (by simp [isReserved]) h).1 hne

theorem microStep_onChain (hs : s.OnChain) (h : microStep s = .next t) : t.OnChain := by
  cases hc : s.current with
  | none =>
    simp only [microStep, current_eq_none.1 hc] at h
    cases h
    exact hs
  | some i =>
    have hne : s.micro ≠ .idle := fun hm => by simp [current_eq_none.2 hm] at hc
    exact exec_onChain (current_not_command hc) hne hs (microStep_eq hc ▸ h)

end Chain

/-- Settles O40: a POLL begins on the chain with its EXTRACT, every micro-operation keeps it there, and it ends between commands,
where the chain is a whole one. -/
theorem pollMovesInTheFixedChain : Obligations.PollMovesInTheFixedChain := by
  intro s t ho h
  obtain ⟨_, ⟨hset, _⟩ | ⟨_, hrun⟩⟩ := poll_inv h
  · simp [ho] at hset
  · have hstart : s.startPoll.OnChain := by simp [State.OnChain]
    have hend : t.OnChain := runMicro_keeps (fun _ _ => microStep_onChain) 4 hstart hrun
    rwa [State.OnChain, poll_ends h] at hend

end Sys2Proof.Machine

/-! PROOFS of the statement that no step stops (60_exceptions.md R119, R124). Between commands every code at the port is answered
(`decodeOp_answers`); in the middle of a POLL the transient values are those the instruction at that point needs
(`current_answers`), so no read leaves its frame and no routine runs without one. -/

namespace Sys2Proof.Machine

section Answering

variable {s : State}

theorem Completes.exists_next {r : Result} {t : State} (h : Completes r t) : ∃ u, r = .next u := by
  obtain ⟨_, h⟩ := h
  exact ⟨_, h⟩

/-! ## Between commands -/

/-- APPEND reads the payload count of a chunk of one byte or more only, and so inside it (20_memory.md R28). -/
theorem append_answers (hm : s.micro = .idle) : ∃ t, exec .append s = .next t := by
  cases ho : s.ovfSet with
  | true => exact ⟨_, append_of_ovfSet hm ho⟩
  | false =>
    by_cases hl : s.port.chunkLen.toNat > s.params.cap.toNat ∨ s.port.chunkLen.toNat < 1
    · exact ⟨_, append_of_bad_length hm ho hl⟩
    · obtain ⟨hcap, hlen⟩ := not_or.1 hl
      have hch : s.port.ch.length = s.port.chunkLen.toNat := List.takeD_length ..
      have hb : s.port.ch[0]? = some s.port.ch[0] := List.getElem?_eq_getElem (by omega)
      by_cases hn : s.port.ch[0].toNat < 1 ∨ s.port.ch[0].toNat + 2 > s.port.chunkLen.toNat
      · exact ⟨_, append_of_bad_count hm ho hb hn⟩
      · obtain ⟨hpos, hfit⟩ := not_or.1 hn
        exact ⟨_, append_of_valid hm ho (Nat.not_lt.1 hlen) (Nat.not_lt.1 hcap) hb (Nat.not_lt.1 hpos) (Nat.not_lt.1 hfit)⟩

theorem poll_answers (hm : s.micro = .idle) : ∃ t, exec .poll s = .next t := by
  cases ho : s.ovfSet with
  | true => exact ⟨_, poll_of_ovfSet hm ho⟩
  | false =>
    obtain ⟨_, _, hpoll⟩ := pollRefinesItsPseudocode s hm ho
    exact hpoll.exists_next

/-- Every code at the port is a host command's, and performed, or refused with a status (45_pipeline.md R108). -/
theorem decodeOp_answers (hm : s.micro = .idle) (op : BitVec 4) : ∃ t, exec (decodeOp op) s = .next t := by
  by_cases hop : 4 ≤ op.toNat
  · exact ⟨_, exec_decodeOp_refused hm hop⟩
  · have hcommand : decodeOp op ∈ ([.nop, .append, .poll, .reset] : List Instr) := by
      revert op
      decide
    simp only [List.mem_cons, List.not_mem_nil, or_false] at hcommand
    obtain h | h | h | h := hcommand <;> rw [h]
    · exact ⟨_, nop_of_idle hm⟩
    · exact append_answers hm
    · exact poll_answers hm
    · exact ⟨_, reset_of_idle hm⟩

/-! ## In the middle of a POLL -/

section Points

variable {sup tr : Bool} {kind : DeviceKind} {fr : List Byte}

theorem seekStart_answers (hm : s.micro = .seekStart sup) : ∃ t, exec .delim s = .next t := by
  cases hi : findDelim s.sb 0 with
  | none => exact ⟨_, delim_of_no_start hm hi⟩
  | some i => exact ⟨_, delim_of_start hm hi⟩

theorem seekEnd_answers {bodyStart : Nat} (hm : s.micro = .seekEnd sup bodyStart) : ∃ t, exec .delim s = .next t := by
  cases hf : findDelim s.sb bodyStart with
  | none => exact ⟨_, delim_of_no_end hm hf⟩
  | some f => exact ⟨_, delim_of_end hm hf⟩

theorem extract_answers (hm : s.micro = .extract sup) : ∃ t, exec .extract s = .next t := by
  obtain ⟨_, hx⟩ | ⟨_, _, ⟨_, hx⟩ | ⟨_, _, hx⟩⟩ := extract_cases hm
  · exact ⟨_, hx⟩
  · exact ⟨_, hx⟩
  · exact ⟨_, hx⟩

theorem validate_answers (hm : s.micro = .validate sup fr) : ∃ t, exec .validate s = .next t := by
  obtain ⟨_, _, _, hx⟩ := validate_follows hm
  exact hx.exists_next

/-- A frame at DEC_UNKNOWN has the byte 1 that names its code (43_validator.md R76, R77). -/
theorem unknown_answers (hm : s.micro = .unknown sup fr) (hlen : 2 ≤ fr.length) :
    ∃ t, exec (.decUnknown (fr.getD 1 0)) s = .next t := by
  have hcode : fr[1]? = some (fr.getD 1 0) := by simp [List.getElem?_eq_getElem hlen]
  exact ⟨_, decUnknown_of_code hm hcode⟩

/-- REQUEUE has an answer with room for the surplus and without (10_state.md R11). -/
theorem requeue_answers {extra : List Byte} (hm : s.micro = .requeue sup kind fr extra) : ∃ t, exec .requeue s = .next t := by
  cases hf : s.fits (extra ++ s.sb) with
  | true => exact ⟨_, requeue_of_fits hm hf⟩
  | false => exact ⟨_, requeue_of_full hm hf⟩

/-- Back from REQUEUE, VALIDATE reads the trailer of a frame of a known kind (43_validator.md R80). -/
theorem check_answers {n : Nat} (hm : s.micro = .check sup kind fr tr) (hn : expectedLength kind = some n) :
    ∃ t, exec .validate s = .next t := by
  have hcheck : exec .validate s = validateCheck sup kind fr tr s := by simp only [exec, execValidate, hm]
  obtain ⟨_, _, hx⟩ := validateCheck_follows (sup := sup) (fr := fr) tr hn
  rw [hcheck]
  exact (hx s).exists_next

theorem decode_answers (hm : s.micro = .decode kind fr tr) (hv : Validated kind fr) : ∃ t, exec .decode s = .next t := by
  obtain ⟨_, _, _, hx⟩ := decodeIsTotalOnValidatedFrames s kind fr tr hm hv
  exact hx.exists_next

theorem runRoutine_answers (hm : s.micro = .routine kind fr tr) (hv : Validated kind fr) :
    ∃ t, runRoutine kind s = .next t := by
  obtain ⟨_, hrd⟩ := decodeRef_of_validated hv
  exact (runRoutine_completes hm hrd).exists_next

end Points

/-- The instruction a command in progress stands at has the transient values it needs, and answers a next state. -/
theorem current_answers {i : Instr} (hi : Inv s) (hc : s.current = some i) : ∃ t, exec i s = .next t := by
  have hok : s.micro.Ok s.params s.sb := hi.microOk
  have hstep : microStep s = exec i s := microStep_eq hc
  rw [State.current] at hc
  cases hm : s.micro <;> rw [hm] at hc hok <;> cases hc
  case extract => exact extract_answers hm
  case seekStart => exact seekStart_answers hm
  case seekEnd => exact seekEnd_answers hm
  case validate => exact validate_answers hm
  case unknown =>
    obtain ⟨hlen, _⟩ := hok
    exact unknown_answers hm hlen
  case requeue => exact requeue_answers hm
  case check =>
    obtain ⟨_, _, hn, _⟩ := hok
    exact check_answers hm hn
  case decode => exact decode_answers hm hok
  case routine kind fr tr =>
    have hrun : microStep s = runRoutine kind s := by simp only [microStep, hm]
    rw [← hstep, hrun]
    exact runRoutine_answers hm hok
  case emit => exact ⟨_, emit_of_record hm⟩

end Answering

/-- Settles O54, by what a step can perform: the instruction a command stands at, nothing, the `rst` pin, or the code on the
port. -/
theorem noStepStops : Obligations.NoStepStops := by
  intro s hi
  cases hc : s.current with
  | some i =>
    rw [step_of_current hc]
    exact current_answers hi hc
  | none =>
    have hm : s.micro = .idle := current_eq_none.1 hc
    cases hp : s.pending with
    | nil => exact ⟨_, step_of_no_transaction hm hp⟩
    | cons p rest =>
      rw [step_of_transaction hm hp]
      split
      · exact ⟨_, rfl⟩
      · exact decodeOp_answers (s := s.present p rest) hm p.op

end Sys2Proof.Machine

/-! PROOFS of the statement about instructions out of place (70_reset_and_hazards.md R136, R137; log entry 8). A host command passes
the port, which is closed while another command is in progress (`atPort_busy`); DELIM, a decode routine and DEC_UNKNOWN act at
their own points of a POLL only, and idle is none of them. -/

namespace Sys2Proof.Machine

section OutOfPlace

variable {s : State}

/-- In the middle of a command the port refuses whatever would be performed there. -/
theorem atPort_busy (r : Result) (h : s.micro ≠ .idle) : atPort s r = .refused .overlappingCommand := by
  unfold atPort
  split
  case h_1 hm => exact absurd hm h
  case h_2 => rfl

theorem delim_of_idle (hm : s.micro = .idle) : exec .delim s = .refused .notDispatched := by
  simp only [exec, execDelim, hm]

theorem routine_of_idle {i : Instr} (hi : isRoutine i) (hm : s.micro = .idle) : exec i s = .refused .notDispatched := by
  rcases hi with rfl | rfl | rfl | rfl | rfl | rfl <;>
    simp only [exec, execDecRain, execDecThermo, execDecBaro, execDecUv, execDecAnemo, execDecClock, hm]

theorem decUnknown_of_idle (code : Byte) (hm : s.micro = .idle) : exec (.decUnknown code) s = .refused .notDispatched := by
  simp only [exec, execDecUnknown, hm]

end OutOfPlace

/-- Settles O48: the four host commands pass the port; DELIM, the six decode routines and DEC_UNKNOWN have points of their own. -/
theorem instructionsOutOfPlaceAreRefused : Obligations.InstructionsOutOfPlaceAreRefused := by
  constructor
  · intro s i hm hi
    simp only [List.mem_cons, List.not_mem_nil, or_false] at hi
    rcases hi with rfl | rfl | rfl | rfl <;> exact atPort_busy _ hm
  · rintro s i hm (hi | ⟨code, rfl⟩)
    · obtain rfl | hroutine := List.mem_cons.1 hi
      · exact delim_of_idle hm
      · simp only [List.mem_cons, List.not_mem_nil, or_false] at hroutine
        exact routine_of_idle hroutine hm
    · exact decUnknown_of_idle code hm

end Sys2Proof.Machine
